-- ==== Sys2Proof/Word.lean ====
section
/-! DEFINITION. The word types of the machine (00_scope.md R6, R8): bit 0 is the least significant bit. -/

namespace Sys2Proof

/-- A 32-bit word: the width of a general register (R6). -/
abbrev Word := BitVec 32

/-- A 16-bit halfword: the width of an instruction (R6, R120). -/
abbrev Half := BitVec 16

/-- An 8-bit byte. -/
abbrev Byte := BitVec 8

/-- A halfword address, the unit of the program counters (R30, R32: PC_BITS = 30). -/
abbrev HAddr := BitVec 30

/-- A word address, the unit of data addresses in registers (R80, R81). -/
abbrev WAddr := BitVec 30

/-- A virtual byte address (R80). -/
abbrev VAddr := BitVec 32

/-- A physical byte address, the result of translation (R95). 32 bits, the width of a virtual one, is DESIGN
CHOICE (L5): the spec gives no width. -/
abbrev PAddr := BitVec 32

/-- A general register number 0..15 (R20). -/
abbrev Reg := Fin 16

end Sys2Proof
end

