-- ==== Sys2Proof/Config.lean ====
section
/-! DEFINITION. The parameters the source leaves open (00_scope.md R7) and the free values, as
uninterpreted constants: nothing can be proved of their values, so what is proved holds for each.
The parameters that stand on the path of every step (opcode bits, BYTE_ORDER, LINE_WORDS) are plain
data of `State.params` instead, so that a step can be evaluated (L1, L3, L4), and with them those that
are a set or a choice of two numbers (DIV_LATENCY, PRIV_SREGS, RESET_PUS). -/

namespace Sys2Proof

/-- Memory: (physical byte address, byte) pairs in one canonical form (Machine/Memory.lean). -/
abbrev Memory := List Host.Cell

/-- Which byte of a word is byte 0 (20_memory.md R83). DESIGN CHOICE of the spec: big (D2). -/
inductive ByteOrder where
  | big | little
deriving DecidableEq, Repr

/-- What translation knows of a page (20_memory.md R95): its size 2^(6+sizeLog) bytes, its frame (the
high bits of the physical address), and the protection attributes R96 names. The field layout of a
page table entry is not in the source (R5). -/
structure PageDesc where
  sizeLog : Fin 27
  frame : PAddr
  user : Bool
  readOnly : Bool
  executeOnly : Bool
  message : Bool
deriving DecidableEq, Repr

namespace Config

/-- Free value: a word the source leaves unspecified, drawn with the state's `tick` and a tag (L9). -/
opaque freeWord : Nat → Nat → Word

/-- R32, D30: the program counter that stands for a halfword address outside 0 to 2^30 - 1 (L25). -/
opaque pcBeyond : Int → HAddr

/-- Free value: a bit the source leaves unspecified, drawn with the state's `tick` and a tag (L9). -/
opaque freeBit : Nat → Nat → Bool

/-- MUL_SIGNED (D13): whether Mul reads its operands as signed numbers (L15). -/
opaque mulSigned : Bool

/-- OVF_COMMIT (D11): whether the result and flags are written when the Overflow trap is taken (L16). -/
opaque ovfCommit : Bool

/-- DIV0_TRAPS (D15): whether Div by zero with MDfull clear traps (L17). -/
opaque div0Traps : Bool

/-- MulPFn (D36): the result of MulP, from H, RegB, RegA, F and Product (L18). -/
opaque mulPFn : Bool → Word → Word → Bool → Word → Word

/-- MaskEnc (D24) before it is made injective (Machine/Operands.lean): the 15 bits of S0 that stand
for the field with right end `pos` and left end `left` (L19). -/
opaque maskRaw : Fin 32 → Fin 32 → BitVec 15

/-- S6Layout (D38) before it is made one-to-one (Machine/Operands.lean): the bit of the 32-bit value
of S6 that holds bit k of the register pair, k < 20 the window's, 20 ≤ k < 28 the semaphores' (L20). -/
opaque s6Position : Nat → Fin 32

/-- S6Layout (D38): the word address that a 20-bit window register stands for (L20). -/
opaque windowAddress : BitVec 20 → WAddr

/-- S6Layout (D38): the 20 bits that Window[0] reads as in S6 (L20). -/
opaque window0Bits : BitVec 20

/-- S12Half (D33): true if the upper half of S12 configures S10 and the lower half S11 (L21). -/
opaque s12UpperIsS10 : Bool

/-- SendDest (D32): the register of a target PU that Send writes, from the number RegB (L22). -/
opaque sendDest : Reg → Reg

/-- TagFormat (91_not_in_source.md N7): the word RDTX returns for an entry's address and its bits
V, R, D, U (L23). -/
opaque tagFormat : PAddr → Bool → Bool → Bool → Bool → Word

/-- The walk of the page table at S15 (R97): the page of a virtual address, or none if not present;
the table's format is not in the source (R5, L5). -/
opaque pageWalk : Word → Memory → VAddr → Option PageDesc

/-- U12: whether a page fault or a failed remote access of a cache operation's address traps; if not,
the operation has no effect (L42). -/
opaque cacheOpTraps : Bool

/-- R361: whether a skipped instruction is counted by the event counters (L41). -/
opaque countsSkipped : Bool

/-- R361: whether an instruction that traps is counted by the event counters (L41). -/
opaque countsTrapped : Bool

/-- R361: whether a two-halfword instruction is counted twice by the event counters (L41). -/
opaque countsExtendedTwice : Bool

end Config

end Sys2Proof
end

