-- ==== Sys2Proof/Machine/Memory.lean ====
section
/-! DEFINITION. Memory as a list of cells in one canonical form: addresses strictly rising, no entry
equal to what an unlisted address reads as (L11). Bytes, and words in the byte order (20_memory.md
R83, R85, R86). -/

namespace Sys2Proof.Machine

/-- What an unlisted address reads as. DESIGN CHOICE (L11): zero; the source gives no contents. -/
def unwrittenByte : Byte := 0

/-- One byte of memory. -/
def readByte : Memory → Nat → Byte
  | [], _ => unwrittenByte
  | (c, d) :: rest, a => if a = c then d else readByte rest a

/-- Memory with one byte written, in canonical form again. -/
def writeByte : Memory → Nat → Byte → Memory
  | [], a, b => if b = unwrittenByte then [] else [(a, b)]
  | (c, d) :: rest, a, b =>
    if a < c then (if b = unwrittenByte then (c, d) :: rest else (a, b) :: (c, d) :: rest)
    else if a = c then (if b = unwrittenByte then rest else (a, b) :: rest)
    else (c, d) :: writeByte rest a b

/-- The canonical form: addresses strictly rising, no unlisted value listed. -/
abbrev memoryWf (m : Memory) : Prop :=
  m.Pairwise (fun x y => x.1 < y.1) ∧ ∀ x ∈ m, x.2 ≠ unwrittenByte

/-- The `n` bytes from an address on. -/
def readBytes (m : Memory) (a n : Nat) : List Byte := (List.range n).map (fun k => readByte m (a + k))

/-- Memory with consecutive bytes written. -/
def writeBytes (m : Memory) (a : Nat) : List Byte → Memory
  | [] => m
  | b :: bs => writeBytes (writeByte m a b) (a + 1) bs

/-- The word of four bytes in memory order (R85). -/
def wordOfBytes (o : ByteOrder) (b0 b1 b2 b3 : Byte) : Word :=
  match o with
  | .big => (b0 ++ b1 ++ b2 ++ b3 : BitVec (8 + 8 + 8 + 8))
  | .little => (b3 ++ b2 ++ b1 ++ b0 : BitVec (8 + 8 + 8 + 8))

/-- The four bytes of a word in memory order (R86). -/
def bytesOfWord (o : ByteOrder) (w : Word) : List Byte :=
  match o with
  | .big => [w.extractLsb' 24 8, w.extractLsb' 16 8, w.extractLsb' 8 8, w.extractLsb' 0 8]
  | .little => [w.extractLsb' 0 8, w.extractLsb' 8 8, w.extractLsb' 16 8, w.extractLsb' 24 8]

/-- The word at a byte address (R85, n = 4). -/
def readWord (o : ByteOrder) (m : Memory) (a : Nat) : Word :=
  wordOfBytes o (readByte m a) (readByte m (a + 1)) (readByte m (a + 2)) (readByte m (a + 3))

/-- Memory with the word at a byte address written (R86, n = 4). -/
def writeWord (o : ByteOrder) (m : Memory) (a : Nat) (w : Word) : Memory :=
  writeBytes m a (bytesOfWord o w)

end Sys2Proof.Machine
end

