-- ==== Sys2Proof/Syntax.lean ====
section
/-! DEFINITION. The instructions: one constructor for each of the 82 forms of opcode_table.json
(30_encoding.md R140), with operand VALUES, not field values (R130). -/

namespace Sys2Proof

/-- The condition field of Bcc, Skcc and Lcc (10_state.md R48), the four reserved codes included. -/
inductive Cc where
  | res0 | eq | lt | le | lo | ls | ov | res7 | res8 | ne | ge | gt | hs | hi | nv | res15
deriving DecidableEq, Repr

/-- The special register number of the two special Mov forms (10_state.md R65), 0 to 15 in order. -/
inductive SReg where
  | mask | remainder | product | puNumber | test | reserved5 | window | statusSave
  | trapArgument | pcSaveQueue | eventCounter1 | eventCounter2 | eventConfig | globalStatus
  | interruptArgument | pageTableOrigin
deriving DecidableEq, Repr

/-- One constructor per form of Table 5. `rb` is RegB, `ra` is RegA, `d` and `p` the data and
pointer registers of the byte forms (R14, 92_eei_decisions.md D42). -/
inductive Instr where
  | adCP (rb ra : Reg)
  | add (rb ra : Reg)
  | addI (rb : Reg) (imm : Nat)
  | addC (rb ra : Reg)
  | addP (rb ra : Reg)
  | adPC (ra : Reg)
  | and (rb ra : Reg)
  | andC (rb ra : Reg)
  | bcc (cc : Cc) (disp : Int)
  | cdc (ra : Reg)
  | clrF (ra : Reg)
  | clrM (bit : Fin 16)
  | clz (rb ra : Reg)
  | cmp (rb ra : Reg)
  | cmpI (rb : Reg) (imm : Nat)
  | cmpP (rb ra : Reg)
  | dep (rb ra : Reg)
  | div (rb ra : Reg)
  | dSh (rb ra : Reg)
  | extS (rb ra : Reg)
  | extU (rb ra : Reg)
  | fdc (ra : Reg)
  | idc (ra : Reg)
  | iic (ra : Reg)
  | iicA
  | ins (rb ra : Reg)
  | int (puMask : BitVec 4)
  | itlb
  | jmpR (disp : Int)
  | jmpA (ra : Reg)
  | jmpL (ra : Reg)
  | lcc (rb : Reg) (cc : Cc)
  | ld (rb : Reg) (imm : Nat)
  | ldB (d p : Reg)
  | ldCP (ra : Reg)
  | ldM (rb ra : Reg)
  | ldWB (rb : Reg) (base : Fin 4) (disp : Nat)
  | ldWD (rb : Reg) (disp : Nat)
  | ldWR (rb ra : Reg)
  | ldWE (rb ra : Reg) (disp : Nat)
  | mov (rb ra : Reg)
  | movTS (rb : Reg) (sp : SReg)
  | movFS (rb : Reg) (sp : SReg)
  | mskI (pos : Fin 32) (len : Nat)
  | mskR (ra : Reg) (len : Nat)
  | mul (rb ra : Reg)
  | mulP (rb ra : Reg)
  | neg (rb ra : Reg)
  | not (rb ra : Reg)
  | or (rb ra : Reg)
  | pdc (ra : Reg)
  | picA (ra : Reg)
  | picR (disp : Int)
  | rdtx (rb ra : Reg)
  | res (puMask : BitVec 4)
  | rsm (puMask : BitVec 4)
  | rtI
  | sbCP (rb ra : Reg)
  | send (rb : Reg) (puMask : BitVec 4)
  | setF (ra : Reg)
  | setM (bit : Fin 16)
  | shL (rb : Reg) (amt : Fin 32)
  | shR (ra : Reg) (amt : Fin 32)
  | skcc (cc : Cc)
  | stB (d p : Reg)
  | stM (rb ra : Reg)
  | strt (rb : Reg) (puMask : BitVec 4)
  | stWB (rb : Reg) (base : Fin 4) (disp : Nat)
  | stWD (rb : Reg) (disp : Nat)
  | stWR (rb base : Reg)
  | stWE (rb base : Reg) (disp : Nat)
  | sub (rb ra : Reg)
  | subI (rb : Reg) (imm : Nat)
  | subC (rb ra : Reg)
  | subP (rb ra : Reg)
  | trap (num : Fin 16)
  | tstF (ra : Reg)
  | tstM (bit : Fin 16)
  | udc (ra : Reg)
  | vdc (ra : Reg)
  | wait (puMask : BitVec 4)
  | xOr (rb ra : Reg)
deriving DecidableEq, Repr

/-- The name of a form, without operands: what the opcode bits select (R122). -/
inductive Form where
  | adCP | add | addI | addC | addP | adPC | and | andC | bcc | cdc | clrF | clrM | clz | cmp
  | cmpI | cmpP | dep | div | dSh | extS | extU | fdc | idc | iic | iicA | ins | int | itlb | jmpR
  | jmpA | jmpL | lcc | ld | ldB | ldCP | ldM | ldWB | ldWD | ldWR | ldWE | mov | movTS | movFS
  | mskI | mskR | mul | mulP | neg | not | or | pdc | picA | picR | rdtx | res | rsm | rtI | sbCP
  | send | setF | setM | shL | shR | skcc | stB | stM | strt | stWB | stWD | stWR | stWE | sub
  | subI | subC | subP | trap | tstF | tstM | udc | vdc | wait | xOr
deriving DecidableEq, Repr

end Sys2Proof
end

