-- ==== Sys2Proof/WellFormed.lean ====
section
/-! DEFINITION. Well-formed instructions: every operand in the range 30_encoding.md R130 gives it.
Registers, bases, bit numbers, trap numbers, PuMasks, Pos and Amt are in range by their types. -/

namespace Sys2Proof

/-- Imm of Add, Cmp and Ld: 1 to 256 (R130). -/
def immOk (n : Nat) : Bool := 1 ≤ n && n ≤ 256

/-- Imm of Sub: 1 to 16 (R130). -/
def imm4Ok (n : Nat) : Bool := 1 ≤ n && n ≤ 16

/-- A 9-bit signed displacement: -256 to 255 halfwords (R130). -/
def disp9Ok (d : Int) : Bool := -256 ≤ d && d ≤ 255

/-- A 12-bit signed displacement: -2048 to 2047 halfwords (R130). -/
def disp12Ok (d : Int) : Bool := -2048 ≤ d && d ≤ 2047

/-- Displacement of the base forms: 1 to 64 words (R130). -/
def disp6Ok (n : Nat) : Bool := 1 ≤ n && n ≤ 64

/-- Displacement of the direct forms: 0 to 255 (R130). -/
def disp8Ok (n : Nat) : Bool := n ≤ 255

/-- Displacement of the extended forms: 1 to 65536 words (R130). -/
def disp16Ok (n : Nat) : Bool := 1 ≤ n && n ≤ 65536

/-- Len of Msk: 1 to 32 (R130). -/
def lenOk (n : Nat) : Bool := 1 ≤ n && n ≤ 32

/-- The instruction's operands are in the ranges of R130. -/
def Instr.wf : Instr → Bool
  | .addI _ imm | .cmpI _ imm | .ld _ imm => immOk imm
  | .subI _ imm => imm4Ok imm
  | .bcc _ d | .picR d => disp9Ok d
  | .jmpR d => disp12Ok d
  | .ldWB _ _ d | .stWB _ _ d => disp6Ok d
  | .ldWD _ d | .stWD _ d => disp8Ok d
  | .ldWE _ _ d | .stWE _ _ d => disp16Ok d
  | .mskI _ len | .mskR _ len => lenOk len
  | .adCP _ _ | .add _ _ | .addC _ _ | .addP _ _ | .adPC _ | .and _ _ | .andC _ _ | .cdc _
  | .clrF _ | .clrM _ | .clz _ _ | .cmp _ _ | .cmpP _ _ | .dep _ _ | .div _ _ | .dSh _ _
  | .extS _ _ | .extU _ _ | .fdc _ | .idc _ | .iic _ | .iicA | .ins _ _ | .int _ | .itlb
  | .jmpA _ | .jmpL _ | .lcc _ _ | .ldB _ _ | .ldCP _ | .ldM _ _ | .ldWR _ _ | .mov _ _
  | .movTS _ _ | .movFS _ _ | .mul _ _ | .mulP _ _ | .neg _ _ | .not _ _ | .or _ _ | .pdc _
  | .picA _ | .rdtx _ _ | .res _ | .rsm _ | .rtI | .sbCP _ _ | .send _ _ | .setF _ | .setM _
  | .shL _ _ | .shR _ _ | .skcc _ | .stB _ _ | .stM _ _ | .strt _ _ | .stWR _ _ | .sub _ _
  | .subC _ _ | .subP _ _ | .trap _ | .tstF _ | .tstM _ | .udc _ | .vdc _ | .wait _ | .xOr _ _ =>
    true

end Sys2Proof
end

