-- ==== Sys2Proof/Decode.lean ====
section
/-! DEFINITION. Decoding and encoding (30_encoding.md). The opcode bits of the 82 forms are a parameter
(R121), a table that either direction takes; `defaultOpcodes` is one table that meets R122 (L1). The
positions of fields whose figures were lost are L2: every RegB, RegA and Base stands where Table 3
puts it (R125), split immediates fill the rest. -/

namespace Sys2Proof

/-- The format labels of 30_encoding.md R140. -/
inductive Format where
  | rr | r1 | z | ri8 | ri4 | bc | j12 | d9 | mb | md | mk | ml | sh | rn | n4 | rrD16
deriving DecidableEq, Repr

/-- One row of an opcode table: the form and its fixed bits, in place (R121). -/
structure OpcodeRow where
  form : Form
  bits : Half
deriving DecidableEq, Repr

/-- A choice of the `OPC_` parameters (R121). -/
abbrev Opcodes := List OpcodeRow

/-- Why a decoding is rejected. -/
inductive DecodeError where
  /-- The halfword matches no row of the opcode table (30_encoding.md R137). -/
  | illegalOpcode (w : Half)
  /-- The words end before the instruction does. -/
  | truncated
deriving DecidableEq, Repr

/-- The format of each form (R140). -/
def Form.format : Form → Format
  | .adCP | .add | .addC | .addP | .and | .andC | .clz | .cmp | .cmpP | .dep | .div | .dSh
  | .extS | .extU | .ins | .ldB | .ldM | .ldWR | .mov | .mul | .mulP | .neg | .not | .or
  | .rdtx | .sbCP | .stB | .stM | .stWR | .sub | .subC | .subP | .xOr => .rr
  | .addI | .cmpI | .ld => .ri8
  | .adPC | .cdc | .clrF | .fdc | .idc | .iic | .jmpA | .jmpL | .ldCP | .pdc | .picA | .setF
  | .tstF | .udc | .vdc => .r1
  | .bcc => .bc
  | .clrM | .int | .res | .rsm | .setM | .skcc | .trap | .tstM | .wait => .n4
  | .iicA | .itlb | .rtI => .z
  | .jmpR => .j12
  | .lcc | .movTS | .movFS | .send | .strt => .rn
  | .ldWB | .stWB => .mb
  | .ldWD | .stWD => .md
  | .ldWE | .stWE => .rrD16
  | .mskI => .mk
  | .mskR => .ml
  | .picR => .d9
  | .shL | .shR => .sh
  | .subI => .ri4

/-- The mask of a format's opcode bits: the bits its operand fields (R130) leave. -/
def Format.mask : Format → Half
  | .rr | .ri4 | .rn | .rrD16 => 0xFF00
  | .r1 | .n4 => 0xFFF0
  | .z => 0xFFFF
  | .ri8 | .j12 | .mb | .md => 0xF000
  | .bc => 0xE000
  | .d9 | .ml | .sh => 0xFE00
  | .mk => 0xFC00

/-- The mask of a form's opcode bits. -/
def Form.mask (f : Form) : Half := f.format.mask

/-- LdWE and StWE occupy two halfwords (R135). -/
def Form.extended (f : Form) : Bool := f.format == .rrD16

/-- Every form, in the order of Table 5 (R140). -/
def Form.all : List Form :=
  ([.adCP, .add, .addI, .addC, .addP, .adPC, .and, .andC, .bcc] : List Form) ++
  ([.cdc, .clrF, .clrM, .clz, .cmp, .cmpI, .cmpP, .dep, .div] : List Form) ++
  ([.dSh, .extS, .extU, .fdc, .idc, .iic, .iicA, .ins, .int] : List Form) ++
  ([.itlb, .jmpR, .jmpA, .jmpL, .lcc, .ld, .ldB, .ldCP, .ldM] : List Form) ++
  ([.ldWB, .ldWD, .ldWR, .ldWE, .mov, .movTS, .movFS, .mskI, .mskR] : List Form) ++
  ([.mul, .mulP, .neg, .not, .or, .pdc, .picA, .picR, .rdtx] : List Form) ++
  ([.res, .rsm, .rtI, .sbCP, .send, .setF, .setM, .shL, .shR] : List Form) ++
  ([.skcc, .stB, .stM, .strt, .stWB, .stWD, .stWR, .stWE, .sub] : List Form) ++
  ([.subI, .subC, .subP, .trap, .tstF, .tstM, .udc, .vdc, .wait] : List Form) ++
  ([.xOr] : List Form)

/-- Two rows stand for different forms, and some bit both fix tells their words apart (R122 a). -/
def OpcodeRow.apart (r q : OpcodeRow) : Bool :=
  r.form != q.form && (r.form.mask &&& q.form.mask &&& (r.bits ^^^ q.bits)) != 0#16

/-- R122: every form has a row, a row fixes opcode bits only, and rows are pairwise apart. -/
def Opcodes.legal (t : Opcodes) : Bool :=
  Form.all.all (fun f => t.any (fun r => r.form == f)) &&
    t.all (fun r => r.bits &&& ~~~r.form.mask == 0#16) &&
    decide (t.Pairwise (fun r q => r.apart q = true))

/-- The fixed bits the table gives a form. -/
def Opcodes.bitsOf (t : Opcodes) (f : Form) : Half :=
  match t.find? (fun r => r.form == f) with
  | some r => r.bits
  | none => 0

/-- The form whose fixed bits the halfword has, if any (R121, R122). -/
def Opcodes.formOf (t : Opcodes) (w : Half) : Option Form :=
  match t.find? (fun r => w &&& r.form.mask == r.bits) with
  | some r => some r.form
  | none => none

/-- DESIGN CHOICE (L1): one table that meets R122, chosen by the model; the source gives no opcode
value. Forms stand in falling order of their operand bits (R131), from the top of the code space. -/
def defaultOpcodes : Opcodes :=
  ([⟨.adCP, 0x5300⟩, ⟨.add, 0x5200⟩, ⟨.addI, 0xD000⟩, ⟨.addC, 0x5100⟩] : Opcodes) ++
  ([⟨.addP, 0x5000⟩, ⟨.adPC, 0x2AF0⟩, ⟨.and, 0x4F00⟩, ⟨.andC, 0x4E00⟩] : Opcodes) ++
  ([⟨.bcc, 0xE000⟩, ⟨.cdc, 0x2AE0⟩, ⟨.clrF, 0x2AD0⟩, ⟨.clrM, 0x2AC0⟩] : Opcodes) ++
  ([⟨.clz, 0x4D00⟩, ⟨.cmp, 0x4C00⟩, ⟨.cmpI, 0xC000⟩, ⟨.cmpP, 0x4B00⟩] : Opcodes) ++
  ([⟨.dep, 0x4A00⟩, ⟨.div, 0x4900⟩, ⟨.dSh, 0x4800⟩, ⟨.extS, 0x4700⟩] : Opcodes) ++
  ([⟨.extU, 0x4600⟩, ⟨.fdc, 0x2AB0⟩, ⟨.idc, 0x2AA0⟩, ⟨.iic, 0x2A90⟩] : Opcodes) ++
  ([⟨.iicA, 0x297F⟩, ⟨.ins, 0x4500⟩, ⟨.int, 0x2A80⟩, ⟨.itlb, 0x297E⟩] : Opcodes) ++
  ([⟨.jmpR, 0xB000⟩, ⟨.jmpA, 0x2A70⟩, ⟨.jmpL, 0x2A60⟩, ⟨.lcc, 0x4400⟩] : Opcodes) ++
  ([⟨.ld, 0xA000⟩, ⟨.ldB, 0x4300⟩, ⟨.ldCP, 0x2A50⟩, ⟨.ldM, 0x4200⟩] : Opcodes) ++
  ([⟨.ldWB, 0x9000⟩, ⟨.ldWD, 0x8000⟩, ⟨.ldWR, 0x4100⟩, ⟨.ldWE, 0x4000⟩] : Opcodes) ++
  ([⟨.mov, 0x3F00⟩, ⟨.movTS, 0x3E00⟩, ⟨.movFS, 0x3D00⟩, ⟨.mskI, 0x5C00⟩] : Opcodes) ++
  ([⟨.mskR, 0x5A00⟩, ⟨.mul, 0x3C00⟩, ⟨.mulP, 0x3B00⟩, ⟨.neg, 0x3A00⟩] : Opcodes) ++
  ([⟨.not, 0x3900⟩, ⟨.or, 0x3800⟩, ⟨.pdc, 0x2A40⟩, ⟨.picA, 0x2A30⟩] : Opcodes) ++
  ([⟨.picR, 0x5800⟩, ⟨.rdtx, 0x3700⟩, ⟨.res, 0x2A20⟩, ⟨.rsm, 0x2A10⟩] : Opcodes) ++
  ([⟨.rtI, 0x297D⟩, ⟨.sbCP, 0x3600⟩, ⟨.send, 0x3500⟩, ⟨.setF, 0x2A00⟩] : Opcodes) ++
  ([⟨.setM, 0x29F0⟩, ⟨.shL, 0x5600⟩, ⟨.shR, 0x5400⟩, ⟨.skcc, 0x29E0⟩] : Opcodes) ++
  ([⟨.stB, 0x3400⟩, ⟨.stM, 0x3300⟩, ⟨.strt, 0x3200⟩, ⟨.stWB, 0x7000⟩] : Opcodes) ++
  ([⟨.stWD, 0x6000⟩, ⟨.stWR, 0x3100⟩, ⟨.stWE, 0x3000⟩, ⟨.sub, 0x2F00⟩] : Opcodes) ++
  ([⟨.subI, 0x2E00⟩, ⟨.subC, 0x2D00⟩, ⟨.subP, 0x2C00⟩, ⟨.trap, 0x29D0⟩] : Opcodes) ++
  ([⟨.tstF, 0x29C0⟩, ⟨.tstM, 0x29B0⟩, ⟨.udc, 0x29A0⟩, ⟨.vdc, 0x2990⟩] : Opcodes) ++
  ([⟨.wait, 0x2980⟩, ⟨.xOr, 0x2B00⟩] : Opcodes)

/-- A condition code from its 4-bit field (10_state.md R48). -/
def Cc.ofField (n : Fin 16) : Cc :=
  match n.val with
  | 0 => .res0 | 1 => .eq | 2 => .lt | 3 => .le | 4 => .lo | 5 => .ls | 6 => .ov | 7 => .res7
  | 8 => .res8 | 9 => .ne | 10 => .ge | 11 => .gt | 12 => .hs | 13 => .hi | 14 => .nv | _ => .res15

/-- The 4-bit field of a condition code (10_state.md R48). -/
def Cc.field : Cc → Fin 16
  | .res0 => 0 | .eq => 1 | .lt => 2 | .le => 3 | .lo => 4 | .ls => 5 | .ov => 6 | .res7 => 7
  | .res8 => 8 | .ne => 9 | .ge => 10 | .gt => 11 | .hs => 12 | .hi => 13 | .nv => 14 | .res15 => 15

/-- A special register from its number (10_state.md R65). -/
def SReg.ofField (n : Fin 16) : SReg :=
  match n.val with
  | 0 => .mask | 1 => .remainder | 2 => .product | 3 => .puNumber | 4 => .test | 5 => .reserved5
  | 6 => .window | 7 => .statusSave | 8 => .trapArgument | 9 => .pcSaveQueue | 10 => .eventCounter1
  | 11 => .eventCounter2 | 12 => .eventConfig | 13 => .globalStatus | 14 => .interruptArgument
  | _ => .pageTableOrigin

/-- The number of a special register (10_state.md R65). -/
def SReg.field : SReg → Fin 16
  | .mask => 0 | .remainder => 1 | .product => 2 | .puNumber => 3 | .test => 4 | .reserved5 => 5
  | .window => 6 | .statusSave => 7 | .trapArgument => 8 | .pcSaveQueue => 9 | .eventCounter1 => 10
  | .eventCounter2 => 11 | .eventConfig => 12 | .globalStatus => 13 | .interruptArgument => 14
  | .pageTableOrigin => 15

/-- The 4-bit field at bits `lo + 3 : lo`. -/
def nibble (w : Half) (lo : Nat) : Fin 16 := (w.extractLsb' lo 4).toFin

/-- Bits 7:4, where Table 3 puts RegB (R125). -/
def fieldB (w : Half) : Fin 16 := nibble w 4

/-- Bits 3:0, where Table 3 puts RegA (R125). -/
def fieldA (w : Half) : Fin 16 := nibble w 0

/-- The 8-bit field split around RegB: bits 11:8 and 3:0 (L2). -/
def splitImm8 (w : Half) : Nat := (w.extractLsb' 8 4 ++ w.extractLsb' 0 4).toNat

/-- The 6-bit field split around RegB: bits 11:8 and 3:2 (L2). -/
def splitDisp6 (w : Half) : Nat := (w.extractLsb' 8 4 ++ w.extractLsb' 2 2).toNat

/-- The Base field, bits 1:0 (R125). -/
def fieldBase (w : Half) : Fin 4 := (w.extractLsb' 0 2).toFin

/-- The signed 9-bit displacement, bits 8:0. -/
def signed9 (w : Half) : Int := (w.extractLsb' 0 9).toInt

/-- The 5-bit field of ShL split around RegB: bit 8 and bits 3:0 (L2). -/
def splitAmt5 (w : Half) : Nat := (w.extractLsb' 8 1 ++ w.extractLsb' 0 4).toNat

/-- The instruction of a form, from its first halfword and, if it has one, its second (R130, R135). -/
def Form.build (f : Form) (w second : Half) : Instr :=
  match f with
  | .adCP => .adCP (fieldB w) (fieldA w)
  | .add => .add (fieldB w) (fieldA w)
  | .addI => .addI (fieldB w) (splitImm8 w + 1)
  | .addC => .addC (fieldB w) (fieldA w)
  | .addP => .addP (fieldB w) (fieldA w)
  | .adPC => .adPC (fieldA w)
  | .and => .and (fieldB w) (fieldA w)
  | .andC => .andC (fieldB w) (fieldA w)
  | .bcc => .bcc (Cc.ofField (nibble w 9)) (signed9 w)
  | .cdc => .cdc (fieldA w)
  | .clrF => .clrF (fieldA w)
  | .clrM => .clrM (fieldA w)
  | .clz => .clz (fieldB w) (fieldA w)
  | .cmp => .cmp (fieldB w) (fieldA w)
  | .cmpI => .cmpI (fieldB w) (splitImm8 w + 1)
  | .cmpP => .cmpP (fieldB w) (fieldA w)
  | .dep => .dep (fieldB w) (fieldA w)
  | .div => .div (fieldB w) (fieldA w)
  | .dSh => .dSh (fieldB w) (fieldA w)
  | .extS => .extS (fieldB w) (fieldA w)
  | .extU => .extU (fieldB w) (fieldA w)
  | .fdc => .fdc (fieldA w)
  | .idc => .idc (fieldA w)
  | .iic => .iic (fieldA w)
  | .iicA => .iicA
  | .ins => .ins (fieldB w) (fieldA w)
  | .int => .int (w.extractLsb' 0 4)
  | .itlb => .itlb
  | .jmpR => .jmpR (w.extractLsb' 0 12).toInt
  | .jmpA => .jmpA (fieldA w)
  | .jmpL => .jmpL (fieldA w)
  | .lcc => .lcc (fieldB w) (Cc.ofField (fieldA w))
  | .ld => .ld (fieldB w) (splitImm8 w + 1)
  | .ldB => .ldB (fieldB w) (fieldA w)
  | .ldCP => .ldCP (fieldA w)
  | .ldM => .ldM (fieldB w) (fieldA w)
  | .ldWB => .ldWB (fieldB w) (fieldBase w) (splitDisp6 w + 1)
  | .ldWD => .ldWD (fieldB w) (splitImm8 w)
  | .ldWR => .ldWR (fieldB w) (fieldA w)
  | .ldWE => .ldWE (fieldB w) (fieldA w) (second.toNat + 1)
  | .mov => .mov (fieldB w) (fieldA w)
  | .movTS => .movTS (fieldB w) (SReg.ofField (fieldA w))
  | .movFS => .movFS (fieldB w) (SReg.ofField (fieldA w))
  | .mskI => .mskI (w.extractLsb' 5 5).toFin ((w.extractLsb' 0 5).toNat + 1)
  | .mskR => .mskR (fieldA w) ((w.extractLsb' 4 5).toNat + 1)
  | .mul => .mul (fieldB w) (fieldA w)
  | .mulP => .mulP (fieldB w) (fieldA w)
  | .neg => .neg (fieldB w) (fieldA w)
  | .not => .not (fieldB w) (fieldA w)
  | .or => .or (fieldB w) (fieldA w)
  | .pdc => .pdc (fieldA w)
  | .picA => .picA (fieldA w)
  | .picR => .picR (signed9 w)
  | .rdtx => .rdtx (fieldB w) (fieldA w)
  | .res => .res (w.extractLsb' 0 4)
  | .rsm => .rsm (w.extractLsb' 0 4)
  | .rtI => .rtI
  | .sbCP => .sbCP (fieldB w) (fieldA w)
  | .send => .send (fieldB w) (w.extractLsb' 0 4)
  | .setF => .setF (fieldA w)
  | .setM => .setM (fieldA w)
  | .shL => .shL (fieldB w) (Fin.ofNat 32 (32 - splitAmt5 w))
  | .shR => .shR (fieldA w) (w.extractLsb' 4 5).toFin
  | .skcc => .skcc (Cc.ofField (fieldA w))
  | .stB => .stB (fieldB w) (fieldA w)
  | .stM => .stM (fieldB w) (fieldA w)
  | .strt => .strt (fieldB w) (w.extractLsb' 0 4)
  | .stWB => .stWB (fieldB w) (fieldBase w) (splitDisp6 w + 1)
  | .stWD => .stWD (fieldB w) (splitImm8 w)
  | .stWR => .stWR (fieldB w) (fieldA w)
  | .stWE => .stWE (fieldB w) (fieldA w) (second.toNat + 1)
  | .sub => .sub (fieldB w) (fieldA w)
  | .subI => .subI (fieldB w) ((fieldA w).val + 1)
  | .subC => .subC (fieldB w) (fieldA w)
  | .subP => .subP (fieldB w) (fieldA w)
  | .trap => .trap (fieldA w)
  | .tstF => .tstF (fieldA w)
  | .tstM => .tstM (fieldA w)
  | .udc => .udc (fieldA w)
  | .vdc => .vdc (fieldA w)
  | .wait => .wait (w.extractLsb' 0 4)
  | .xOr => .xOr (fieldB w) (fieldA w)

/-- The instruction the words begin with, and the words after it; the length is learnt from the first
halfword (R120, R135). -/
def decode (t : Opcodes) : List Half → Except DecodeError (Instr × List Half)
  | [] => .error .truncated
  | w :: ws =>
    match t.formOf w with
    | none => .error (.illegalOpcode w)
    | some f =>
      if f.extended then
        match ws with
        | [] => .error .truncated
        | w2 :: rest => .ok (f.build w w2, rest)
      else .ok (f.build w 0, ws)

/-- The halfword of two bytes in memory order (20_memory.md R85). -/
def halfOfBytes (o : ByteOrder) (b0 b1 : Byte) : Half :=
  match o with
  | .big => (b0 ++ b1 : BitVec (8 + 8))
  | .little => (b1 ++ b0 : BitVec (8 + 8))

/-- The halfwords of bytes in memory order; an odd byte at the end is dropped. -/
def halvesOfBytes (o : ByteOrder) : List Byte → List Half
  | b0 :: b1 :: rest => halfOfBytes o b0 b1 :: halvesOfBytes o rest
  | [] | [_] => []

/-- The two bytes of a halfword in memory order. -/
def bytesOfHalf (o : ByteOrder) (w : Half) : List Byte :=
  match o with
  | .big => [w.extractLsb' 8 8, w.extractLsb' 0 8]
  | .little => [w.extractLsb' 0 8, w.extractLsb' 8 8]

/-- The instruction that bytes in memory order begin with; total on any bytes. -/
def decodeBytes (t : Opcodes) (o : ByteOrder) (bs : List Byte) : Except DecodeError Instr :=
  match decode t (halvesOfBytes o bs) with
  | .ok (i, _) => .ok i
  | .error e => .error e

/-- The halfwords of a number, the first in its low 16 bits. -/
def tableHalves (w : Nat) : List Half := [BitVec.ofNat 16 w, BitVec.ofNat 16 (w / 65536)]

/-- The instruction the decoder reads from the words of `w`, bit 0 the lowest bit of the first. -/
def decodeTableWord (nbits w : Nat) : Option Instr :=
  let bytes := (tableHalves (w % 2 ^ nbits)).flatMap (bytesOfHalf .big)
  match decodeBytes defaultOpcodes .big bytes with
  | .ok i => some i
  | .error _ => none

/-- The form of an instruction. -/
def Instr.form : Instr → Form
  | .adCP _ _ => .adCP
  | .add _ _ => .add
  | .addI _ _ => .addI
  | .addC _ _ => .addC
  | .addP _ _ => .addP
  | .adPC _ => .adPC
  | .and _ _ => .and
  | .andC _ _ => .andC
  | .bcc _ _ => .bcc
  | .cdc _ => .cdc
  | .clrF _ => .clrF
  | .clrM _ => .clrM
  | .clz _ _ => .clz
  | .cmp _ _ => .cmp
  | .cmpI _ _ => .cmpI
  | .cmpP _ _ => .cmpP
  | .dep _ _ => .dep
  | .div _ _ => .div
  | .dSh _ _ => .dSh
  | .extS _ _ => .extS
  | .extU _ _ => .extU
  | .fdc _ => .fdc
  | .idc _ => .idc
  | .iic _ => .iic
  | .iicA => .iicA
  | .ins _ _ => .ins
  | .int _ => .int
  | .itlb => .itlb
  | .jmpR _ => .jmpR
  | .jmpA _ => .jmpA
  | .jmpL _ => .jmpL
  | .lcc _ _ => .lcc
  | .ld _ _ => .ld
  | .ldB _ _ => .ldB
  | .ldCP _ => .ldCP
  | .ldM _ _ => .ldM
  | .ldWB _ _ _ => .ldWB
  | .ldWD _ _ => .ldWD
  | .ldWR _ _ => .ldWR
  | .ldWE _ _ _ => .ldWE
  | .mov _ _ => .mov
  | .movTS _ _ => .movTS
  | .movFS _ _ => .movFS
  | .mskI _ _ => .mskI
  | .mskR _ _ => .mskR
  | .mul _ _ => .mul
  | .mulP _ _ => .mulP
  | .neg _ _ => .neg
  | .not _ _ => .not
  | .or _ _ => .or
  | .pdc _ => .pdc
  | .picA _ => .picA
  | .picR _ => .picR
  | .rdtx _ _ => .rdtx
  | .res _ => .res
  | .rsm _ => .rsm
  | .rtI => .rtI
  | .sbCP _ _ => .sbCP
  | .send _ _ => .send
  | .setF _ => .setF
  | .setM _ => .setM
  | .shL _ _ => .shL
  | .shR _ _ => .shR
  | .skcc _ => .skcc
  | .stB _ _ => .stB
  | .stM _ _ => .stM
  | .strt _ _ => .strt
  | .stWB _ _ _ => .stWB
  | .stWD _ _ => .stWD
  | .stWR _ _ => .stWR
  | .stWE _ _ _ => .stWE
  | .sub _ _ => .sub
  | .subI _ _ => .subI
  | .subC _ _ => .subC
  | .subP _ _ => .subP
  | .trap _ => .trap
  | .tstF _ => .tstF
  | .tstM _ => .tstM
  | .udc _ => .udc
  | .vdc _ => .vdc
  | .wait _ => .wait
  | .xOr _ _ => .xOr

/-- A 4-bit field's bits. -/
def bits4 (n : Fin 16) : BitVec 4 := BitVec.ofNat 4 n.val

/-- Two register fields at 7:4 and 3:0. -/
def placeBA (b a : Fin 16) : Half := (0#8 ++ bits4 b ++ bits4 a : BitVec (8 + 4 + 4))

/-- One 4-bit field at 3:0. -/
def placeA (a : Fin 16) : Half := (0#12 ++ bits4 a : BitVec (12 + 4))

/-- An 8-bit field split around RegB (L2). -/
def placeImm8 (b : Fin 16) (v : BitVec 8) : Half :=
  (0#4 ++ v.extractLsb' 4 4 ++ bits4 b ++ v.extractLsb' 0 4 : BitVec (4 + 4 + 4 + 4))

/-- A 6-bit displacement split around RegB, and Base (L2). -/
def placeBase (b : Fin 16) (base : Fin 4) (v : BitVec 6) : Half :=
  (0#4 ++ v.extractLsb' 2 4 ++ bits4 b ++ v.extractLsb' 0 2 ++ BitVec.ofNat 2 base.val :
    BitVec (4 + 4 + 4 + 2 + 2))

/-- The operand fields of an instruction's first halfword (R130; places R129 does not give: L2), opcode bits
0. -/
def Instr.operands : Instr → Half
  | .adCP rb ra => placeBA rb ra
  | .add rb ra => placeBA rb ra
  | .addI rb imm => placeImm8 rb (BitVec.ofNat 8 (imm - 1))
  | .addC rb ra => placeBA rb ra
  | .addP rb ra => placeBA rb ra
  | .adPC ra => placeA ra
  | .and rb ra => placeBA rb ra
  | .andC rb ra => placeBA rb ra
  | .bcc cc d => (0#3 ++ bits4 cc.field ++ BitVec.ofInt 9 d : BitVec (3 + 4 + 9))
  | .cdc ra => placeA ra
  | .clrF ra => placeA ra
  | .clrM n => placeA n
  | .clz rb ra => placeBA rb ra
  | .cmp rb ra => placeBA rb ra
  | .cmpI rb imm => placeImm8 rb (BitVec.ofNat 8 (imm - 1))
  | .cmpP rb ra => placeBA rb ra
  | .dep rb ra => placeBA rb ra
  | .div rb ra => placeBA rb ra
  | .dSh rb ra => placeBA rb ra
  | .extS rb ra => placeBA rb ra
  | .extU rb ra => placeBA rb ra
  | .fdc ra => placeA ra
  | .idc ra => placeA ra
  | .iic ra => placeA ra
  | .iicA => 0
  | .ins rb ra => placeBA rb ra
  | .int m => placeA m.toFin
  | .itlb => 0
  | .jmpR d => (0#4 ++ BitVec.ofInt 12 d : BitVec (4 + 12))
  | .jmpA ra => placeA ra
  | .jmpL ra => placeA ra
  | .lcc rb cc => placeBA rb cc.field
  | .ld rb imm => placeImm8 rb (BitVec.ofNat 8 (imm - 1))
  | .ldB rb ra => placeBA rb ra
  | .ldCP ra => placeA ra
  | .ldM rb ra => placeBA rb ra
  | .ldWB rb base d => placeBase rb base (BitVec.ofNat 6 (d - 1))
  | .ldWD rb d => placeImm8 rb (BitVec.ofNat 8 d)
  | .ldWR rb ra => placeBA rb ra
  | .ldWE rb ra _ => placeBA rb ra
  | .mov rb ra => placeBA rb ra
  | .movTS rb sp => placeBA rb sp.field
  | .movFS rb sp => placeBA rb sp.field
  | .mskI pos len => (0#6 ++ BitVec.ofNat 5 pos.val ++ BitVec.ofNat 5 (len - 1) : BitVec (6 + 5 + 5))
  | .mskR ra len => (0#7 ++ BitVec.ofNat 5 (len - 1) ++ bits4 ra : BitVec (7 + 5 + 4))
  | .mul rb ra => placeBA rb ra
  | .mulP rb ra => placeBA rb ra
  | .neg rb ra => placeBA rb ra
  | .not rb ra => placeBA rb ra
  | .or rb ra => placeBA rb ra
  | .pdc ra => placeA ra
  | .picA ra => placeA ra
  | .picR d => (0#7 ++ BitVec.ofInt 9 d : BitVec (7 + 9))
  | .rdtx rb ra => placeBA rb ra
  | .res m => placeA m.toFin
  | .rsm m => placeA m.toFin
  | .rtI => 0
  | .sbCP rb ra => placeBA rb ra
  | .send rb m => placeBA rb m.toFin
  | .setF ra => placeA ra
  | .setM n => placeA n
  | .shL rb amt =>
    let v := BitVec.ofNat 5 (32 - amt.val)
    (0#7 ++ v.extractLsb' 4 1 ++ bits4 rb ++ v.extractLsb' 0 4 : BitVec (7 + 1 + 4 + 4))
  | .shR ra amt => (0#7 ++ BitVec.ofNat 5 amt.val ++ bits4 ra : BitVec (7 + 5 + 4))
  | .skcc cc => placeA cc.field
  | .stB rb ra => placeBA rb ra
  | .stM rb ra => placeBA rb ra
  | .strt rb m => placeBA rb m.toFin
  | .stWB rb base d => placeBase rb base (BitVec.ofNat 6 (d - 1))
  | .stWD rb d => placeImm8 rb (BitVec.ofNat 8 d)
  | .stWR rb ra => placeBA rb ra
  | .stWE rb ra _ => placeBA rb ra
  | .sub rb ra => placeBA rb ra
  | .subI rb imm => placeBA rb (Fin.ofNat 16 (imm - 1))
  | .subC rb ra => placeBA rb ra
  | .subP rb ra => placeBA rb ra
  | .trap n => placeA n
  | .tstF ra => placeA ra
  | .tstM n => placeA n
  | .udc ra => placeA ra
  | .vdc ra => placeA ra
  | .wait m => placeA m.toFin
  | .xOr rb ra => placeBA rb ra

/-- The second halfword of an extended instruction: Displacement - 1 (R135). -/
def Instr.second : Instr → List Half
  | .ldWE _ _ d | .stWE _ _ d => [BitVec.ofNat 16 (d - 1)]
  | .adCP _ _ | .add _ _ | .addI _ _ | .addC _ _ | .addP _ _ | .adPC _ | .and _ _ | .andC _ _
  | .bcc _ _ | .cdc _ | .clrF _ | .clrM _ | .clz _ _ | .cmp _ _ | .cmpI _ _ | .cmpP _ _
  | .dep _ _ | .div _ _ | .dSh _ _ | .extS _ _ | .extU _ _ | .fdc _ | .idc _ | .iic _ | .iicA
  | .ins _ _ | .int _ | .itlb | .jmpR _ | .jmpA _ | .jmpL _ | .lcc _ _ | .ld _ _ | .ldB _ _
  | .ldCP _ | .ldM _ _ | .ldWB _ _ _ | .ldWD _ _ | .ldWR _ _ | .mov _ _ | .movTS _ _
  | .movFS _ _ | .mskI _ _ | .mskR _ _ | .mul _ _ | .mulP _ _ | .neg _ _ | .not _ _ | .or _ _
  | .pdc _ | .picA _ | .picR _ | .rdtx _ _ | .res _ | .rsm _ | .rtI | .sbCP _ _ | .send _ _
  | .setF _ | .setM _ | .shL _ _ | .shR _ _ | .skcc _ | .stB _ _ | .stM _ _ | .strt _ _
  | .stWB _ _ _ | .stWD _ _ | .stWR _ _ | .sub _ _ | .subI _ _ | .subC _ _ | .subP _ _
  | .trap _ | .tstF _ | .tstM _ | .udc _ | .vdc _ | .wait _ | .xOr _ _ => []

/-- The words of an instruction under an opcode table (R121, R130, R135). -/
def encode (t : Opcodes) (i : Instr) : List Half :=
  (t.bitsOf i.form ||| i.operands) :: i.second

end Sys2Proof
end

