-- ==== Sys2Proof/Machine/State.lean ====
section
/-! DEFINITION. The state of the chip (10_state.md): four processing units, the chip-global registers,
memory, caches and TLB; the reasons a step can stop; the state after reset. -/

namespace Sys2Proof.Machine

/-- The chip parameters that stand on the path of a step (00_scope.md R7); the MODEL's own field, changed
by no step. -/
structure Params where
  /-- The opcode bits (D1, L1). -/
  opcodes : Opcodes
  /-- BYTE_ORDER (D2, L3). -/
  byteOrder : ByteOrder
  /-- LINE_WORDS = 2^lineLog (D17, L4). -/
  lineLog : Fin 5
  /-- DIV_LATENCY is 17, not 33 (D14, L30). -/
  divShort : Bool
  /-- The special registers of PRIV_SREGS beside those the spec's text makes privileged (D28, L24). -/
  privExtra : List SReg
  /-- RESET_PUS, bit i for PU# i (D19, L12). -/
  resetPus : BitVec 4
deriving DecidableEq, Repr

/-- The four processing units, by PU# (10_state.md R53). -/
inductive PuId where
  | pu0 | pu1 | pu2 | pu3
deriving DecidableEq, Repr

/-- The contents of S0 (R50, D24): a field definition made by Msk, or the 15 bits a Mov put there. -/
inductive MaskReg where
  | field (pos left : Fin 32)
  | raw (v : BitVec 15)
deriving DecidableEq, Repr

/-- A register whose contents a Mul or Div leaves invalid for a while (70_reset_and_hazards.md R398). -/
inductive Dest where
  | gpr (r : Reg)
  | remainder
  | product
deriving DecidableEq, Repr

/-- A result-pending interval (R398): its register, the instructions it still lasts, and whether a
write or another Mul or Div inside it made the final contents unspecified. -/
structure InFlight where
  dest : Dest
  left : Nat
  spoiled : Bool
deriving DecidableEq, Repr

/-- The semaphore bit a frozen PU waits for (R71): cluster, number, and the value awaited. -/
structure SemWait where
  cluster : Bool
  index : Fin 8
  value : Bool
deriving DecidableEq, Repr

/-- A LdM or StM that has moved some of its words (20_memory.md R89, 40_load_store_move.md R165, R175):
the registers it names, RegA's contents when it began, and the number of the register it moves next. -/
structure Transfer where
  load : Bool
  count : Reg
  addr : Reg
  base : Word
  next : Reg
deriving DecidableEq, Repr

/-- What is left of an instruction whose memory accesses take several steps, each access being indivisible
and nothing larger (20_memory.md R89, D16): LdWE or StWE with its first halfword fetched, or with both; LdM
or StM with some words moved. -/
inductive Rest where
  | second (first : Half)
  | access (i : Instr)
  | move (x : Transfer)
deriving DecidableEq, Repr

/-- One processing unit (R15, R363). -/
structure PU where
  /-- R0..R15 (R20). -/
  regs : Vector Word 16
  /-- Current Program Counter (R30). -/
  pc : HAddr
  /-- Next Program Counter (R30). -/
  npc : HAddr
  /-- System Status/Control (R40). -/
  sscr : Word
  /-- S0 Mask (R50). -/
  mask : MaskReg
  /-- S1 Remainder (R51). -/
  remainder : Word
  /-- S2 Product (R52). -/
  product : Word
  /-- S7 Status_Save (R57). -/
  statusSave : Word
  /-- S8 Trap Argument (R58). -/
  trapArg : Word
  /-- S9 PC_Save Queue, saved PC (R59). -/
  qHead : HAddr
  /-- S9 PC_Save Queue, saved Next PC (R59). -/
  qTail : HAddr
  /-- Between the two RtIs of a pair (R70, 45_control.md R322). -/
  rti1 : Bool
  /-- The semaphore bit a direct access found in the wrong state (R71): the PU is frozen while the bit is
  still in that state. -/
  waitSem : Option SemWait
  /-- The rest of a LdM, StM, LdWE or StWE (20_memory.md R89). -/
  run : Option Rest
  /-- The mask of the Wait the PU is blocked in (R71, 45_control.md R332). -/
  waitMask : Option (BitVec 4)
  /-- A directed Inter-PU interrupt 0x1B not yet taken (60_exceptions.md R347). -/
  pendInter : Bool
  /-- A directed Restart interrupt 0x1D not yet taken (60_exceptions.md R347). -/
  pendRestart : Bool
  /-- Mul and Div results not yet valid (R70, R398). -/
  inflight : List InFlight
  /-- The MODEL's own: the dynamic predecessor was Bcc, Jmp, JmpL or Skcc (R393, R394). -/
  afterBranch : Bool
  /-- The MODEL's own: the Wait the PU was in ended in this step and is not counted yet (L41). -/
  waitEnded : Bool
deriving DecidableEq, Repr

/-- One line of the data cache (44_cache_control.md R300). `backing` is what Main Memory holds of the
line where that may differ from `State.mem`; none where they agree (L7). Bit k of `unstored` is set while
word k of a line that CDC made has not been stored: it is never written back (R290). -/
structure CacheLine where
  valid : Bool
  dirty : Bool
  readOnly : Bool
  user : Bool
  base : PAddr
  backing : Option (List Byte)
  unstored : BitVec 16
deriving DecidableEq, Repr

/-- One set of the data cache: four lines, and their order from least to most recently used (R300). -/
structure CacheSet where
  ways : Vector CacheLine 4
  order : List (Fin 4)
deriving DecidableEq, Repr

/-- One line of the instruction cache: its address and the bytes copied when it was filled (R300). The address
is physical; DESIGN CHOICE (L8): whether the tags are virtual or physical is open (N21). -/
structure FetchLine where
  base : PAddr
  bytes : List Byte
deriving DecidableEq, Repr

/-- A halfword stored to, until its line is written back by FDC or UDC and then invalidated by IIC or IICa: the
values a fetch of it may return, the old ones and the new (20_memory.md R100), and whether the write-back has
come since the last store. -/
structure StoredHalf where
  addr : PAddr
  values : List Half
  written : Bool
deriving DecidableEq, Repr

/-- One TLB entry: the number of the virtual page and what translation knows of it (R97). -/
structure TlbEntry where
  page : VAddr
  desc : PageDesc
deriving DecidableEq, Repr

/-- Held interrupts of external origin (10_state.md R72, 60_exceptions.md R348). -/
structure Pending where
  reset : Bool
  machineCheck : Bool
  restart : Bool
  powerFail : Bool
  interChip : Option (BitVec 30)
deriving DecidableEq, Repr

/-- An interrupt cause from outside the instruction set (60_exceptions.md R348). -/
inductive ExtEvent where
  | reset
  | machineCheck
  | restart
  | powerFail
  | interChip (addr : BitVec 30)
  | external
deriving DecidableEq, Repr

/-- What the outside world decides of one step: the PU that takes it and a cause that arrives (L13). -/
structure StepInput where
  pu : PuId
  event : Option ExtEvent
deriving DecidableEq, Repr

/-- What the last step did; the MODEL's own, read by the event counters (L41). `finishedTrapping` is a
Trap instruction or a taken branch with B = 1, which completes and enters an exception. -/
inductive StepEvent where
  | idle | finished | finishedExtended | finishedTrapping | skipped | trapped | interrupted | waiting
deriving DecidableEq, Repr

/-- The whole chip. -/
structure State where
  /-- Chip parameters; the MODEL's own. -/
  params : Params
  pu0 : PU
  pu1 : PU
  pu2 : PU
  pu3 : PU
  /-- The PU that steps next; the MODEL's own (L13). -/
  turn : PuId
  /-- What the outside world decides of the coming steps; the MODEL's own (L13, L14). -/
  inputs : List StepInput
  /-- Memory as data accesses see it (R68, L7). -/
  mem : Memory
  /-- The data cache, 16 sets (20_memory.md R101). -/
  dcache : Vector CacheSet 16
  /-- The instruction cache (R72). -/
  icache : List FetchLine
  /-- The halfwords stored to without R100's sequence since; the MODEL's own (L8). -/
  stored : List StoredHalf
  /-- The translation lookaside buffer (20_memory.md R97). -/
  tlb : List TlbEntry
  /-- S4 Test (R54). -/
  s4 : Word
  /-- S6 Window[1] (R56). -/
  window1 : BitVec 20
  /-- S6 semaphores of cluster 0 (R56). -/
  sem0 : BitVec 8
  /-- S6 semaphores of cluster 1 (R56). -/
  sem1 : BitVec 8
  /-- S10 Event Counter 1 (R60). -/
  s10 : Word
  /-- S11 Event Counter 2 (R60). -/
  s11 : Word
  /-- S12 Event Configuration (R61). -/
  s12 : BitVec 16
  /-- S14 Interrupt Argument (R63). -/
  s14 : Word
  /-- S15 Page Table Origin/Node (R64). -/
  s15 : Word
  /-- Held external interrupts (R72). -/
  pend : Pending
  /-- The counter free values are drawn with; the MODEL's own (L9). -/
  tick : Nat
  /-- What the last step did; the MODEL's own (L41). -/
  event : StepEvent
deriving DecidableEq, Repr

/-- Reasons the machine stops with a fault. The spec gives the Antares none: every exception of
Table 2 is taken, with a next state (60_exceptions.md R341, R352). -/
inductive Fault where
deriving DecidableEq, Repr

/-- Reasons the model gives no next state. -/
inductive Refusal where
  /-- An arm of exec without a meaning. Safe: nothing is claimed of the instruction. -/
  | notModelled (mnemonic : String)
  /-- LdWE or StWE in the slot after Bcc, Jmp, JmpL or Skcc, a skipped slot included (R393, U3: undefined,
  refuse). Safe. -/
  | extendedAfterBranch
  /-- LdM or StM with RegB = 0 (U8: undefined, refuse). Safe. -/
  | emptyRegisterRun
  /-- RtI with traps enabled (R394, U4: undefined, refuse). Safe. -/
  | rtiWithTrapsEnabled
  /-- The first RtI of a pair in a shadow or after Skcc (R394, U4: undefined, refuse). Safe. That it is refused
  after an untaken Bcc too is DESIGN CHOICE (L28): R394's quoted sentence names Bcc, but its "So:", R322 and U4
  list only a shadow and Skcc. -/
  | rtiAfterBranch
  /-- The first RtI not followed by a second (R394, U4: undefined, refuse). Raised by the step. Safe. -/
  | rtiPairBroken
  /-- Strt naming its issuer (U13: undefined, refuse). Safe. -/
  | strtNamesItself
  /-- A write of S4 Test, whose effects the spec does not give (R54: refuse). Safe. -/
  | testRegisterWrite
deriving DecidableEq, Repr

/-- A step's outcome in the model's own types. -/
abbrev Out := Host.Outcome State Fault Refusal

/-- An invalid line of the data cache. -/
def CacheLine.empty : CacheLine := ⟨false, false, false, false, 0, none, 0⟩

/-- A set with no valid line. The recency order and the addresses of the entries are DESIGN CHOICE
(L10): R75 gives the caches no reset state. -/
def CacheSet.empty : CacheSet := ⟨Vector.replicate 4 CacheLine.empty, [0, 1, 2, 3]⟩

/-- A TLB entry that maps every address to itself and never faults; DESIGN CHOICE (L5). -/
def TlbEntry.identity : TlbEntry := ⟨0, ⟨26, 0, true, false, false, false⟩⟩

/-- A PU after reset (10_state.md R75): R390 for `pc`, `npc`, SSCR 15:0, W, S, RTI1; the other values
are DESIGN CHOICE (L10). `halted` sets W. -/
def PU.reset (halted : Bool) : PU where
  regs := Vector.replicate 16 0
  pc := 0xF8
  npc := 0xF9
  sscr := if halted then 0x02000000 else 0
  mask := .raw 0
  remainder := 0
  product := 0
  statusSave := 0
  trapArg := 0
  qHead := 0
  qTail := 0
  rti1 := false
  waitSem := none
  run := none
  waitMask := none
  pendInter := false
  pendRestart := false
  inflight := []
  afterBranch := false
  waitEnded := false

/-- The parameters of the state after reset; DESIGN CHOICE (L1, L3, L4, L12, L24, L30). -/
def Params.reset : Params where
  opcodes := defaultOpcodes
  byteOrder := .big
  lineLog := 4
  divShort := false
  privExtra := [.eventCounter1, .eventCounter2, .eventConfig, .globalStatus]
  resetPus := 1

/-- The machine after reset, with the PUs of RESET_PUS (bit i for PU# i) running and the others halted
(70_reset_and_hazards.md R390). The values no rule gives, and that no interrupt is held, are DESIGN CHOICE
(L10, L11). -/
def State.resetWith (resetPus : BitVec 4) : State where
  params := { Params.reset with resetPus := resetPus }
  pu0 := PU.reset (!resetPus.getLsbD 0)
  pu1 := PU.reset (!resetPus.getLsbD 1)
  pu2 := PU.reset (!resetPus.getLsbD 2)
  pu3 := PU.reset (!resetPus.getLsbD 3)
  turn := .pu0
  inputs := []
  mem := []
  dcache := Vector.replicate 16 CacheSet.empty
  icache := []
  stored := []
  tlb := [TlbEntry.identity]
  s4 := 0
  window1 := 0
  sem0 := 0
  sem1 := 0
  s10 := 0
  s11 := 0
  s12 := 0
  s14 := 0
  s15 := 0
  pend := ⟨false, false, false, false, none⟩
  tick := 0
  event := .idle

/-- The machine right after reset. DESIGN CHOICE (L12): RESET_PUS = PU 0, as R390 suggests. -/
def State.reset : State := State.resetWith 1

end Sys2Proof.Machine
end

