-- ==== Sys2Proof/Machine/Ops.lean ====
section
/-! DEFINITION. The named operations over registers, status bits and program counters; taking an
exception (60_exceptions.md R352) and returning from one (45_control.md R322), each written once. -/

namespace Sys2Proof.Machine

/-! ### Free values (L9) -/

/-- A free halfword address. -/
def freeAddr (tick tag : Nat) : HAddr := (Config.freeWord tick tag).extractLsb' 0 30

/-- Tags below 128 that belong to one PU: several PUs may draw them in one step. -/
def tagOfPu (p : PuId) (tag : Nat) : Nat :=
  match p with
  | .pu0 => 256 + tag
  | .pu1 => 384 + tag
  | .pu2 => 512 + tag
  | .pu3 => 640 + tag

/-- Tag of an early read of a Mul or Div result (R398). -/
def tagDest : Dest → Nat
  | .gpr r => r.val
  | .remainder => 16
  | .product => 17

/-- Tag of the settled contents of a spoiled Mul or Div result (R398). -/
def tagSettle (d : Dest) : Nat := 32 + tagDest d

/-- Tag of SSCR 31:16 after an entry (R352). -/
def tagEntryStatus : Nat := 64

/-- Tag of Status_Save after a nonmaskable entry with T = 0, or a Reset (R355, R390). -/
def tagEntrySave : Nat := 65

/-- Tag of the queue's head after a nonmaskable entry with T = 0, or a Reset (R355, R390). -/
def tagEntryHead : Nat := 66

/-- Tag of the queue's tail after a nonmaskable entry with T = 0, or a Reset (R355, R390). -/
def tagEntryTail : Nat := 67

/-! ### Status bits (10_state.md R40) -/

/-- A word with bit `i` set to `b`. -/
def setBit (w : Word) (i : Nat) (b : Bool) : Word :=
  if b then w ||| (1#32 <<< i) else w &&& ~~~(1#32 <<< i)

/-- H, Halfword/byte (R40, R42). -/
def PU.flagH (u : PU) : Bool := u.sscr.getLsbD 1
/-- F, MDfull (R40, R42). -/
def PU.flagF (u : PU) : Bool := u.sscr.getLsbD 2
/-- VE, overflow trap enable (R40, R42). -/
def PU.flagVE (u : PU) : Bool := u.sscr.getLsbD 3
/-- A, registers available (R40, R42). -/
def PU.flagA (u : PU) : Bool := u.sscr.getLsbD 4
/-- B, branch taken trap enable (R40, R42). -/
def PU.flagB (u : PU) : Bool := u.sscr.getLsbD 10
/-- T, trap enable (R40, R42). -/
def PU.flagT (u : PU) : Bool := u.sscr.getLsbD 11
/-- U, user mode (R40, R42). -/
def PU.flagU (u : PU) : Bool := u.sscr.getLsbD 12
/-- C#, cluster number (R40, R42). -/
def PU.flagCN (u : PU) : Bool := u.sscr.getLsbD 13
/-- Z, Zero (R40, R44). -/
def PU.flagZ (u : PU) : Bool := u.sscr.getLsbD 16
/-- N, Negative (R40, R44). -/
def PU.flagN (u : PU) : Bool := u.sscr.getLsbD 17
/-- V, Overflow (R40, R44). -/
def PU.flagV (u : PU) : Bool := u.sscr.getLsbD 18
/-- The carry bit Ck, k = 0..3 (R40, R44). -/
def PU.carry (u : PU) (k : Nat) : Bool := u.sscr.getLsbD (19 + k)
/-- W, Halted (R40, R43). -/
def PU.flagW (u : PU) : Bool := u.sscr.getLsbD 25
/-- S, Skipped (R40, R43). -/
def PU.flagS (u : PU) : Bool := u.sscr.getLsbD 27

/-- Bit number of F. -/
def bitF : Nat := 2
/-- Bit number of A. -/
def bitA : Nat := 4
/-- Bit number of W. -/
def bitW : Nat := 25
/-- Bit number of SH, second half. -/
def bitSH : Nat := 26
/-- Bit number of S. -/
def bitS : Nat := 27

/-- The PU with one bit of SSCR written. -/
def PU.withBit (u : PU) (i : Nat) (b : Bool) : PU := { u with sscr := setBit u.sscr i b }

/-- The PU with RCnt, SSCR bits 31:28, written (R43). -/
def PU.withRCnt (u : PU) (k : BitVec 4) : PU :=
  { u with sscr := (k ++ u.sscr.extractLsb' 0 28 : BitVec (4 + 28)) }

/-- Status_Save as selection and TstM see it: while T = 1 it follows SSCR (10_state.md R57). -/
def PU.savedStatus (u : PU) : Word := if u.flagT then u.sscr else u.statusSave

/-! ### The four PUs -/

/-- A PU by its number. -/
def State.pu (s : State) : PuId → PU
  | .pu0 => s.pu0
  | .pu1 => s.pu1
  | .pu2 => s.pu2
  | .pu3 => s.pu3

/-- The state with one PU replaced. -/
def State.setPu (s : State) (p : PuId) (u : PU) : State :=
  match p with
  | .pu0 => { s with pu0 := u }
  | .pu1 => { s with pu1 := u }
  | .pu2 => { s with pu2 := u }
  | .pu3 => { s with pu3 := u }

/-- The PU that executes this step. -/
def State.cpu (s : State) : PU := s.pu s.turn

/-- The state with the executing PU replaced. -/
def State.setCpu (s : State) (u : PU) : State := s.setPu s.turn u

/-- The state with the executing PU changed. -/
def State.modCpu (s : State) (f : PU → PU) : State := s.setCpu (f s.cpu)

/-- PU# (S3, 10_state.md R53). -/
def PuId.number : PuId → Nat
  | .pu0 => 0
  | .pu1 => 1
  | .pu2 => 2
  | .pu3 => 3

/-- The four PUs, by rising number. -/
def PuId.all : List PuId := [.pu0, .pu1, .pu2, .pu3]

/-- The PU after this one, round robin (L13). -/
def PuId.next : PuId → PuId
  | .pu0 => .pu1
  | .pu1 => .pu2
  | .pu2 => .pu3
  | .pu3 => .pu0

/-! ### Registers and the Mul/Div result intervals (70_reset_and_hazards.md R398, L30) -/

/-- The register's Mul or Div result is not valid yet. -/
def PU.busy (u : PU) (d : Dest) : Bool := u.inflight.any (fun e => e.dest == d)

/-- A write to a register inside its interval makes its final contents unspecified (R398). That the other
result register of the same Mul or Div keeps its result is DESIGN CHOICE (L30). -/
def PU.spoil (u : PU) (d : Dest) : PU :=
  { u with inflight := u.inflight.map (fun e => if e.dest = d then { e with spoiled := true } else e) }

/-- A Mul or Div issues: earlier intervals become unspecified, new ones begin (R398). That results of its own
in registers that had none pending are specified is DESIGN CHOICE (L30). -/
def PU.issue (u : PU) (dests : List Dest) (n : Nat) : PU :=
  { u with
    inflight :=
      u.inflight.map (fun e =>
        { e with spoiled := true, left := if dests.contains e.dest then max e.left n else e.left }) ++
      (dests.filter (fun d => !u.busy d)).map (fun d => ⟨d, n, false⟩) }

/-- A register's contents replaced, its interval untouched. -/
def PU.putDest (u : PU) (d : Dest) (v : Word) : PU :=
  match d with
  | .gpr r => { u with regs := u.regs.set r.val v r.isLt }
  | .remainder => { u with remainder := v }
  | .product => { u with product := v }

/-- A register's contents written by an instruction. -/
def PU.writeDest (u : PU) (d : Dest) (v : Word) : PU := (u.spoil d).putDest d v

/-- A general register's stored contents. -/
def PU.reg (u : PU) (r : Reg) : Word := u.regs[r.val]

/-- A register's stored contents. -/
def PU.getDest (u : PU) (d : Dest) : Word :=
  match d with
  | .gpr r => u.reg r
  | .remainder => u.remainder
  | .product => u.product

/-- A register as an instruction reads it: a free value inside its interval (R398). -/
def PU.readDest (u : PU) (tick : Nat) (d : Dest) : Word :=
  if u.busy d then Config.freeWord tick (tagDest d) else u.getDest d

/-- The end of an interval of PU `p`: spoiled contents become a free value (R398). -/
def PU.settle (p : PuId) (tick : Nat) (u : PU) (e : InFlight) : PU :=
  if e.left ≤ 1 ∧ e.spoiled = true then
    u.putDest e.dest (Config.freeWord tick (tagOfPu p (tagSettle e.dest))) else u

/-- One more instruction of PU `p` has executed (R398). -/
def PU.retire (u : PU) (p : PuId) (tick : Nat) : PU :=
  let settled := u.inflight.foldl (PU.settle p tick) u
  { settled with
    inflight := (u.inflight.filter (fun e => decide (1 < e.left))).map
      (fun e => { e with left := e.left - 1 }) }

/-- Read general register `r` of the executing PU. -/
def State.rd (s : State) (r : Reg) : Word := s.cpu.readDest s.tick (.gpr r)

/-- Write general register `r` of the executing PU. -/
def State.wr (s : State) (r : Reg) (v : Word) : State := s.modCpu (fun u => u.writeDest (.gpr r) v)

/-! ### Program counters (10_state.md R31) -/

/-- A program counter moved by `d` halfwords; outside the program counter's range the result is open
(R32, D30, L25). -/
def pcAdd (h : HAddr) (d : Int) : HAddr :=
  let x : Int := h.toNat + d
  if 0 ≤ x ∧ x.toNat < 2 ^ 30 then BitVec.ofInt 30 x else Config.pcBeyond x

/-- The sequential line of R31. -/
def PU.sequential (u : PU) : PU :=
  { u with pc := u.npc, npc := pcAdd u.npc 1, afterBranch := false, waitSem := none, run := none }

/-- The taken-transfer line of R31. -/
def PU.transfer (u : PU) (t : HAddr) : PU :=
  { u with pc := u.npc, npc := t, afterBranch := true, waitSem := none, run := none }

/-- The extended line of R31. -/
def PU.sequentialExtended (u : PU) : PU :=
  { u with
    pc := pcAdd u.npc 1, npc := pcAdd u.npc 2, afterBranch := false, waitSem := none, run := none }

/-- An instruction completes and the program counters advance sequentially. -/
def State.advance (s : State) : State := { s.modCpu PU.sequential with event := .finished }

/-- A two-halfword instruction completes. -/
def State.advanceExtended (s : State) : State :=
  { s.modCpu PU.sequentialExtended with event := .finishedExtended }

/-- Bcc, Jmp, JmpL and Skcc mark the slot after them (R393, R394). -/
def State.advanceBranch (s : State) : State :=
  s.advance.modCpu (fun u => { u with afterBranch := true })

/-- The PU stays at its instruction: blocked or frozen (10_state.md R71), or with accesses of it still to
come (20_memory.md R89). -/
def State.stay (s : State) : State := { s with event := .waiting }

/-! ### Taking an exception (60_exceptions.md R352) -/

/-- Reset (R341). -/
def numReset : Fin 32 := 0x1F
/-- Machine Check (R341). -/
def numMachineCheck : Fin 32 := 0x1E
/-- Restart (R341). -/
def numRestart : Fin 32 := 0x1D
/-- PowerFail/OverTemp (R341). -/
def numPowerFail : Fin 32 := 0x1C
/-- Inter-PU (R341, 90_conflicts.md C5). -/
def numInterPu : Fin 32 := 0x1B
/-- Inter-chip (R341). -/
def numInterChip : Fin 32 := 0x1A
/-- Event Counter (R341). -/
def numEventCounter : Fin 32 := 0x19
/-- External (R341). -/
def numExternal : Fin 32 := 0x18
/-- Overflow/Divide by 0 (R341). -/
def numOverflow : Fin 32 := 0x17
/-- Illegal or Privileged Op, and Taken Branch (R341). -/
def numIllegal : Fin 32 := 0x16
/-- Data access fault (R341). -/
def numDataAccess : Fin 32 := 0x15
/-- Instruction access fault (R341). -/
def numInstAccess : Fin 32 := 0x14
/-- Data Page Fault (R341). -/
def numDataPage : Fin 32 := 0x13
/-- Inst Page Fault (R341). -/
def numInstPage : Fin 32 := 0x12
/-- Node Busy (R341). -/
def numNodeBusy : Fin 32 := 0x11

/-- The entry address of exception `n`: halfword `8 * n` (R340, R352). -/
def vectorOf (n : Fin 32) : HAddr := BitVec.ofNat 30 (8 * n.val)

/-- The bits of SSCR that R352 leaves unspecified after an entry: 31:28, 26 and 24:16. -/
def entryFreeBits : Word := 0xF5FF0000

/-- The entry of R352 on PU `p`, without what it saves. That the mark of a preceding branch or skip is gone,
and no return brings it back, is DESIGN CHOICE (L28). -/
def PU.enterVector (u : PU) (p : PuId) (tick : Nat) (n : Fin 32) : PU :=
  { u with
    sscr := Config.freeWord tick (tagOfPu p tagEntryStatus) &&& entryFreeBits
    rti1 := false
    waitSem := none
    run := none
    waitMask := none
    afterBranch := false
    pc := vectorOf n
    npc := vectorOf n + 1 }

/-- An unspecified saved context (R355, R390). -/
def PU.saveFree (u : PU) (p : PuId) (tick : Nat) : PU :=
  { u with
    statusSave := Config.freeWord tick (tagOfPu p tagEntrySave)
    qHead := freeAddr tick (tagOfPu p tagEntryHead)
    qTail := freeAddr tick (tagOfPu p tagEntryTail) }

/-- The entry of R352 on PU `p`. With T = 0, only a nonmaskable entry, the saved context is unspecified
(R355). -/
def PU.enter (u : PU) (p : PuId) (tick : Nat) (n : Fin 32) (saved : HAddr × HAddr) : PU :=
  (if u.flagT then { u with statusSave := u.sscr, qHead := saved.1, qTail := saved.2 }
   else u.saveFree p tick).enterVector p tick n

/-- S12 with the enable of each overflowed and enabled counter cleared (R343). That one entry clears both,
where both counters have overflowed, is DESIGN CHOICE (L41). -/
def clearCounterEnables (c : BitVec 16) : BitVec 16 :=
  let upper := if c.getLsbD 15 && c.getLsbD 14 then c &&& 0x7FFF else c
  if c.getLsbD 7 && c.getLsbD 6 then upper &&& 0xFF7F else upper

/-- The chip-global individual enable of `n`, if it has one, resets at entry (R343, R352). -/
def State.clearEnable (s : State) (n : Fin 32) : State :=
  if n = numEventCounter then { s with s12 := clearCounterEnables s.s12 }
  else if n = numExternal then { s with s14 := setBit s.s14 31 false }
  else s

/-- The entry of R352 on PU `p`. -/
def State.enter (s : State) (p : PuId) (n : Fin 32) (saved : HAddr × HAddr) : State :=
  { (s.clearEnable n).setPu p ((s.pu p).enter p s.tick n saved) with event := .trapped }

/-- A synchronous trap on the executing PU; with traps disabled, Machine Check (R344). -/
def State.raiseAt (s : State) (n : Fin 32) (saved : HAddr × HAddr) : State :=
  s.enter s.turn (if s.cpu.flagT then n else numMachineCheck) saved

/-- A synchronous trap whose saved pair is the instruction's own (R353). -/
def State.raise (s : State) (n : Fin 32) : State := s.raiseAt n (s.cpu.pc, s.cpu.npc)

/-- Trap 0x16 (R351). -/
def State.raiseIllegal (s : State) : State := s.raise numIllegal

/-- A control transfer to `t` completes, and with B = 1 the Taken Branch trap follows (R349). -/
def State.takeBranch (s : State) (t : HAddr) : State :=
  let s1 := s.modCpu (fun u => u.transfer t)
  if s.cpu.flagB then { s1.raise numIllegal with event := .finishedTrapping }
  else { s1 with event := .finished }

/-! ### Returning from an exception (45_control.md R322, 60_exceptions.md R354) -/

/-- The first RtI of a pair: a delayed transfer to the queue's head, which advances. -/
def PU.returnFirst (u : PU) : PU :=
  { u with
    pc := u.npc
    npc := u.qHead
    qHead := u.qTail
    rti1 := true
    afterBranch := false
    waitSem := none
    run := none }

/-- The second RtI of a pair: a delayed transfer to the queue's head, and SSCR is restored with W
forced to 0. -/
def PU.returnSecond (u : PU) : PU :=
  { u with
    pc := u.npc
    npc := u.qHead
    sscr := setBit u.statusSave bitW false
    rti1 := false
    afterBranch := false
    waitSem := none
    run := none }

end Sys2Proof.Machine
end

