-- ==== Sys2Proof/Machine/Flags.lean ====
section
/-! DEFINITION. The condition codes (10_state.md R44 to R48): the full-word add core (41_arithmetic.md
R200), the partial-word lanes (R216), and the conditions of Bcc, Skcc and Lcc. -/

namespace Sys2Proof.Machine

/-- The seven condition codes (R44). -/
structure Flags where
  n : Bool
  z : Bool
  v : Bool
  c0 : Bool
  c1 : Bool
  c2 : Bool
  c3 : Bool
deriving DecidableEq, Repr

/-- SSCR with the condition codes replaced (bits 16 to 22, R40). -/
def withFlags (w : Word) (f : Flags) : Word :=
  setBit (setBit (setBit (setBit (setBit (setBit (setBit w 16 f.z) 17 f.n) 18 f.v) 19 f.c0) 20 f.c1)
    21 f.c2) 22 f.c3

/-- The executing PU's SSCR with the condition codes replaced. -/
def State.setFlags (s : State) (f : Flags) : State :=
  s.modCpu (fun u => { u with sscr := withFlags u.sscr f })

/-- N, Z written and V cleared, the carries kept (R49, the logical and field rows). -/
def State.setNZ (s : State) (n z : Bool) : State :=
  s.modCpu (fun u => { u with sscr := setBit (setBit (setBit u.sscr 16 z) 17 n) 18 false })

/-- N and Z written, V and the carries kept (R49, Or and the shifts). -/
def State.setNZkeepV (s : State) (n z : Bool) : State :=
  s.modCpu (fun u => { u with sscr := setBit (setBit u.sscr 16 z) 17 n })

/-- The full-word carry written: C0, with C1 to C3 cleared (R44). -/
def State.setCarry (s : State) (c : Bool) : State :=
  s.modCpu (fun u =>
    { u with sscr := setBit (setBit (setBit (setBit u.sscr 19 c) 20 false) 21 false) 22 false })

/-- `AddCore` of R200: the 32-bit sum, and the flags of the exact sum. -/
def addCore (d s : Word) (cin : Bool) : Word × Flags :=
  let u : Nat := d.toNat + s.toNat + cin.toNat
  let t : Int := d.toInt + s.toInt + cin.toNat
  let r : Word := BitVec.ofNat 32 u
  (r, { n := decide (t < 0), z := decide (r = 0),
        v := decide (t < -2147483648 ∨ 2147483647 < t),
        c0 := decide (4294967296 ≤ u), c1 := false, c2 := false, c3 := false })

/-- One lane of `PartialCore` (R216): the lane's result and its carry out. -/
def laneAdd (w : Nat) (d s : BitVec w) (cin : Bool) : BitVec w × Bool :=
  let u : Nat := d.toNat + s.toNat + cin.toNat
  (BitVec.ofNat w u, decide (2 ^ w ≤ u))

/-- Byte lane k: bits `31-8k : 24-8k` (10_state.md R47). -/
def byteLane (w : Word) (k : Nat) : BitVec 8 := w.extractLsb' (24 - 8 * k) 8

/-- Halfword lane 0 is bits 31:16, lane 2 bits 15:0 (10_state.md R47). -/
def halfLane (w : Word) (k : Nat) : BitVec 16 := w.extractLsb' (16 - 8 * k) 16

/-- `PartialCore` of R216 in byte mode; `cin k` is the carry into lane k. -/
def partialBytes (d s : Word) (cin : Nat → Bool) : Word × Flags :=
  let l := fun k => laneAdd 8 (byteLane d k) (byteLane s k) (cin k)
  ((((l 0).1 ++ (l 1).1 ++ (l 2).1 ++ (l 3).1 : BitVec (8 + 8 + 8 + 8))),
    { n := (l 0).1.msb || (l 1).1.msb || (l 2).1.msb || (l 3).1.msb
      z := (l 0).1 == 0 || (l 1).1 == 0 || (l 2).1 == 0 || (l 3).1 == 0
      v := false
      c0 := (l 0).2, c1 := (l 1).2, c2 := (l 2).2, c3 := (l 3).2 })

/-- `PartialCore` of R216 in halfword mode. -/
def partialHalves (d s : Word) (cin : Nat → Bool) : Word × Flags :=
  let l := fun k => laneAdd 16 (halfLane d k) (halfLane s k) (cin k)
  ((((l 0).1 ++ (l 2).1 : BitVec (16 + 16))),
    { n := (l 0).1.msb || (l 2).1.msb
      z := (l 0).1 == 0 || (l 2).1 == 0
      v := false
      c0 := (l 0).2, c1 := false, c2 := (l 2).2, c3 := false })

/-- `PartialCore` of R216 in the mode H selects. -/
def partialCore (h : Bool) (d s : Word) (cin : Nat → Bool) : Word × Flags :=
  if h then partialHalves d s cin else partialBytes d s cin

/-- C = 1: some carry bit is set (R48). -/
def PU.anyCarry (u : PU) : Bool := u.carry 0 || u.carry 1 || u.carry 2 || u.carry 3

/-- Tag of the outcome of a reserved condition code (U6). -/
def tagCond : Nat := 80

/-- `cond(cc)` of R48; a reserved code is a free bit (U6, L31). -/
def State.cond (s : State) (cc : Cc) : Bool :=
  let u := s.cpu
  match cc with
  | .eq => u.flagZ
  | .lt => u.flagN
  | .le => u.flagN || u.flagZ
  | .lo => !u.anyCarry
  | .ls => !u.anyCarry || u.flagZ
  | .ov => u.flagV
  | .ne => !u.flagZ
  | .ge => !u.flagN
  | .gt => !u.flagN && !u.flagZ
  | .hs => u.anyCarry
  | .hi => u.anyCarry && !u.flagZ
  | .nv => !u.flagV
  | .res0 | .res7 | .res8 | .res15 => Config.freeBit s.tick tagCond

end Sys2Proof.Machine
end

