-- ==== Sys2Proof/Machine/Arithmetic.lean ====
section
/-! DEFINITION. Arithmetic instructions (41_arithmetic.md R200 to R216). -/

namespace Sys2Proof.Machine

/-- A full-word sum stored in `rb` with its flags, then `OverflowCheck` (R200); whether they are written
when the trap is taken is OVF_COMMIT (L16). -/
def State.commitAdd (s : State) (rb : Reg) (r : Word × Flags) : State :=
  let t := (s.wr rb r.1).setFlags r.2
  if r.2.v && s.cpu.flagVE then (if Config.ovfCommit then t else s).raise numOverflow else t.advance

/-- Add (R202). -/
def execAdd (rb ra : Reg) (s : State) : Out := .next (s.commitAdd rb (addCore (s.rd rb) (s.rd ra) false))

/-- Add Immediate (R203). -/
def execAddI (rb : Reg) (imm : Nat) (s : State) : Out :=
  .next (s.commitAdd rb (addCore (s.rd rb) (BitVec.ofNat 32 imm) false))

/-- AddC (R204): C0 is the carry in. -/
def execAddC (rb ra : Reg) (s : State) : Out :=
  .next (s.commitAdd rb (addCore (s.rd rb) (s.rd ra) (s.cpu.carry 0)))

/-- Sub (R212). -/
def execSub (rb ra : Reg) (s : State) : Out :=
  .next (s.commitAdd rb (addCore (s.rd rb) (~~~(s.rd ra)) true))

/-- Subtract Immediate (R213). -/
def execSubI (rb : Reg) (imm : Nat) (s : State) : Out :=
  .next (s.commitAdd rb (addCore (s.rd rb) (~~~(BitVec.ofNat 32 imm)) true))

/-- SubC (R214): C0 is the carry in. -/
def execSubC (rb ra : Reg) (s : State) : Out :=
  .next (s.commitAdd rb (addCore (s.rd rb) (~~~(s.rd ra)) (s.cpu.carry 0)))

/-- Neg (R210). -/
def execNeg (rb ra : Reg) (s : State) : Out := .next (s.commitAdd rb (addCore 0 (~~~(s.rd ra)) true))

/-- A partial-word result stored in `rb` with its flags (R216); no overflow can occur. -/
def State.commitPartial (s : State) (rb : Reg) (r : Word × Flags) : State :=
  ((s.wr rb r.1).setFlags r.2).advance

/-- AddP (R205). -/
def execAddP (rb ra : Reg) (s : State) : Out :=
  .next (s.commitPartial rb (partialCore s.cpu.flagH (s.rd rb) (s.rd ra) (fun _ => false)))

/-- AdCP (R201): each lane's carry in is its own carry bit. -/
def execAdCP (rb ra : Reg) (s : State) : Out :=
  .next (s.commitPartial rb (partialCore s.cpu.flagH (s.rd rb) (s.rd ra) s.cpu.carry))

/-- SubP (R215). -/
def execSubP (rb ra : Reg) (s : State) : Out :=
  .next (s.commitPartial rb (partialCore s.cpu.flagH (s.rd rb) (~~~(s.rd ra)) (fun _ => true)))

/-- SbCP (R211): each lane's carry in is its own carry bit. -/
def execSbCP (rb ra : Reg) (s : State) : Out :=
  .next (s.commitPartial rb (partialCore s.cpu.flagH (s.rd rb) (~~~(s.rd ra)) s.cpu.carry))

/-! ### Multiply and divide -/

/-- The unsigned 64-bit value of Mul (R208). -/
def productUnsigned (b a c : Word) : BitVec 64 := BitVec.ofNat 64 (b.toNat * a.toNat + c.toNat)

/-- The signed 64-bit value of Mul (R208). -/
def productSigned (b a c : Word) : BitVec 64 := BitVec.ofInt 64 (b.toInt * a.toInt + c.toInt)

/-- What Mul leaves in Product: the upper word, signed or not by MUL_SIGNED (R208, L15). -/
def productHigh (b a c : Word) : Word :=
  (if Config.mulSigned then productSigned b a c else productUnsigned b a c).extractLsb' 32 32

/-- What Mul leaves in RegB: the lower word, the same under both values of MUL_SIGNED (R208). -/
def productLow (b a c : Word) : Word := b * a + c

/-- MUL_LATENCY (R398, D14). -/
def mulLatency : Nat := 5

/-- DIV_LATENCY: 17 or 33 (R398, D14, L30). -/
def State.divLatency (s : State) : Nat := if s.params.divShort then 17 else 33

/-- Mul (R208). -/
def execMul (rb ra : Reg) (s : State) : Out :=
  let b := s.rd rb
  let a := s.rd ra
  let c := if s.cpu.flagF then s.cpu.readDest s.tick .product else 0
  .next (s.modCpu (fun u =>
    (((u.issue [.gpr rb, .product] mulLatency).putDest .product (productHigh b a c)).putDest (.gpr rb)
      (productLow b a c)).withBit bitF false)).advance

/-- MulP (R209): the result is the parameter MulPFn (L18). -/
def execMulP (rb ra : Reg) (s : State) : Out :=
  let c := s.cpu.readDest s.tick .product
  let r := Config.mulPFn s.cpu.flagH (s.rd rb) (s.rd ra) s.cpu.flagF c
  .next ((s.wr rb r).modCpu (fun u => u.withBit bitF false)).advance

/-- Tag of the quotient on overflow or a zero divisor (R207, L17). -/
def tagQuotient : Nat := 84

/-- Tag of the remainder on overflow or a zero divisor (R207, L17). -/
def tagRemainder : Nat := 85

/-- Div stores its results and issues (R207, R398). -/
def State.divide (s : State) (rb : Reg) (q r : Word) : State :=
  (s.modCpu (fun u =>
    ((u.issue [.gpr rb, .remainder] s.divLatency).putDest .remainder r).putDest (.gpr rb) q)).advance

/-- Div whose result is not described (R207). -/
def State.divideFree (s : State) (rb : Reg) : State :=
  s.divide rb (Config.freeWord s.tick tagQuotient) (Config.freeWord s.tick tagRemainder)

/-- The upper word of the dividend (R207). -/
def State.dividendHigh (s : State) : Word := if s.cpu.flagF then s.cpu.readDest s.tick .remainder else 0

/-- The quotient of R207. -/
def quotient (hi lo d : Word) : Word := BitVec.ofNat 32 ((hi.toNat * 2 ^ 32 + lo.toNat) / d.toNat)

/-- The remainder of R207. -/
def remainder (hi lo d : Word) : Word := BitVec.ofNat 32 ((hi.toNat * 2 ^ 32 + lo.toNat) % d.toNat)

/-- Div takes the Overflow trap: it has issued, so results still pending become unspecified (R398;
DESIGN CHOICE, L30), and it leaves its own registers. -/
def State.divideTrap (s : State) : State := (s.modCpu (fun u => u.issue [] 0)).raise numOverflow

/-- Div (R207): F is cleared first. -/
def execDiv (rb ra : Reg) (s : State) : Out :=
  let hi := s.dividendHigh
  let lo := s.rd rb
  let d := s.rd ra
  let t := s.modCpu (fun u => u.withBit bitF false)
  if s.cpu.flagF = true ∧ d.toNat ≤ hi.toNat then
    .next (if s.cpu.flagVE then t.divideTrap else t.divideFree rb)
  else if d = 0 then
    .next (if Config.div0Traps && s.cpu.flagVE then t.divideTrap else t.divideFree rb)
  else .next (t.divide rb (quotient hi lo d) (remainder hi lo d))

/-- The number of leading zeros of a word; 32 for zero (R206, L45). -/
def leadingZeros (w : Word) : Nat := ((List.range 32).find? (fun k => w.getLsbD (31 - k))).getD 32

/-- CLZ (R206): the flags describe the source. -/
def execClz (rb ra : Reg) (s : State) : Out :=
  let a := s.rd ra
  .next ((s.wr rb (BitVec.ofNat 32 (leadingZeros a))).setNZ a.msb (a == 0)).advance

end Sys2Proof.Machine
end

