-- ==== Sys2Proof/Machine/Operands.lean ====
section
/-! DEFINITION. Operand forms: word addresses, byte pointers, direct addresses and semaphores
(20_memory.md R81, R82, R90 to R92), field definitions (43_shift_logical_field.md R260), the views of
S6 and S13 (10_state.md R56, R62), PuMasks and mode-bit numbers (45_control.md R315, R316). -/

namespace Sys2Proof.Machine

/-! ### Addresses -/

/-- Bits 29:0 of a word, the word or halfword address it holds (R81, R32). -/
def addressOf (w : Word) : BitVec 30 := w.extractLsb' 0 30

/-- The word address `x + d` (R81). -/
def wordAddress (x : Word) (d : Nat) : WAddr := addressOf x + BitVec.ofNat 30 d

/-- The virtual byte address of a word address (R80). -/
def byteOfWord (wa : WAddr) : VAddr := (wa ++ 0#2 : BitVec (30 + 2))

/-- The virtual byte address of a halfword address (R80, R87). -/
def byteOfHalf (h : HAddr) : VAddr := (0#1 ++ h ++ 0#1 : BitVec (1 + 30 + 1))

/-- The virtual byte address a byte pointer names (R82). -/
def byteOfPointer (p : Word) : VAddr := (p.extractLsb' 0 30 ++ p.extractLsb' 30 2 : BitVec (30 + 2))

/-- The byte pointer that names a virtual byte address (R82). -/
def pointerTo (va : VAddr) : Word := (va.extractLsb' 0 2 ++ va.extractLsb' 2 30 : BitVec (2 + 30))

/-- `NextBytePtr` (R82). -/
def nextBytePtr (p : Word) : Word := pointerTo (byteOfPointer p + 1)

/-- A 30-bit address as a register's contents (10_state.md R33). -/
def zeroExtend30 (a : BitVec 30) : Word := (0#2 ++ a : BitVec (2 + 30))

/-! ### Direct addressing and semaphores -/

/-- `Window[0]`, the constant (R90). -/
def window0 : WAddr := 0x3FF00000

/-- `Window[CN]` as a word address (R90). -/
def State.window (s : State) (cn : Bool) : WAddr :=
  if cn then Config.windowAddress s.window1 else window0

/-- `DirectWA` (R90). -/
def State.directWA (s : State) (disp : Nat) : WAddr := s.window s.cpu.flagCN + BitVec.ofNat 30 disp

/-- The semaphore bits of a cluster (10_state.md R56). -/
def State.sems (s : State) (cn : Bool) : BitVec 8 := if cn then s.sem1 else s.sem0

/-- One semaphore bit (R91). -/
def State.sem (s : State) (cn : Bool) (k : Nat) : Bool := (s.sems cn).getLsbD k

/-- Eight bits with bit `k` set to `b`. -/
def setBit8 (w : BitVec 8) (k : Nat) (b : Bool) : BitVec 8 :=
  if b then w ||| (1#8 <<< k) else w &&& ~~~(1#8 <<< k)

/-- The state with the semaphore bits of a cluster written. -/
def State.setSems (s : State) (cn : Bool) (v : BitVec 8) : State :=
  if cn then { s with sem1 := v } else { s with sem0 := v }

/-- The state with one semaphore bit written (R91, R92). -/
def State.setSem (s : State) (cn : Bool) (k : Nat) (b : Bool) : State :=
  s.setSems cn (setBit8 (s.sems cn) k b)

/-! ### The Mask register (10_state.md R50, L19) -/

/-- `Config.maskRaw` tells every two legal field definitions apart. -/
abbrev maskRawInjective : Prop :=
  ∀ p l q m : Fin 32, p ≤ l → q ≤ m → Config.maskRaw p l = Config.maskRaw q m → p = q ∧ l = m

/-- One injective layout, taken where `Config.maskRaw` is not injective. -/
def maskPack (pos left : Fin 32) : BitVec 15 :=
  (0#5 ++ BitVec.ofNat 5 left.val ++ BitVec.ofNat 5 pos.val : BitVec (5 + 5 + 5))

/-- `MaskEnc`, an injective parameter function (R50, D24). -/
def maskEnc (pos left : Fin 32) : BitVec 15 :=
  if maskRawInjective then Config.maskRaw pos left else maskPack pos left

/-- Every pair of a right and a left end. -/
def fieldPairs : List (Fin 32 × Fin 32) :=
  (List.finRange 32).flatMap (fun p => (List.finRange 32).map (fun l => (p, l)))

/-- The definition a 15-bit value stands for, if it is in the image of `MaskEnc` (R260). -/
def maskDec (v : BitVec 15) : Option (Fin 32 × Fin 32) :=
  fieldPairs.find? (fun f => decide (f.1 ≤ f.2) && maskEnc f.1 f.2 == v)

/-- The 15 bits of S0 (R50). -/
def MaskReg.bits : MaskReg → BitVec 15
  | .field p l => maskEnc p l
  | .raw v => v

/-- `Field()` of R260: right end and left end, or none for an illegal definition. -/
def MaskReg.field? : MaskReg → Option (Fin 32 × Fin 32)
  | .field p l => if p ≤ l then some (p, l) else none
  | .raw v => maskDec v

/-- `FM(pos, left)` of R260. -/
def fieldMask (pos left : Fin 32) : Word :=
  BitVec.ofNat 32 ((2 ^ (left.val - pos.val + 1) - 1) * 2 ^ pos.val)

/-- The left end `min(31, pos + len - 1)` of Msk (R269, R270). -/
def leftEnd (pos : Fin 32) (len : Nat) : Fin 32 := Fin.ofNat 32 (min 31 (pos.val + len - 1))

/-! ### S6 and S13 as words -/

/-- The 28 places of S6Layout are distinct (L20). -/
abbrev s6Distinct : Prop :=
  ∀ j k : Fin 28, Config.s6Position j.val = Config.s6Position k.val → j = k

/-- The bit of S6 that holds bit `k` of window (k < 20) and semaphores (20 ≤ k < 28). -/
def s6Bit (k : Nat) : Nat := if s6Distinct then (Config.s6Position k).val else k

/-- `S6Layout.pack` (40_load_store_move.md R170). -/
def s6Pack (window : BitVec 20) (sem : BitVec 8) : Word :=
  (List.range 28).foldl (fun w k => setBit w (s6Bit k) ((sem ++ window : BitVec (8 + 20)).getLsbD k)) 0

/-- The window half of `S6Layout.unpack` (40_load_store_move.md R169). -/
def s6Window (v : Word) : BitVec 20 :=
  (List.range 20).foldl (fun w k => w ||| (BitVec.ofNat 20 (v.getLsbD (s6Bit k)).toNat <<< k)) 0

/-- The semaphore half of `S6Layout.unpack` (40_load_store_move.md R169). -/
def s6Sems (v : Word) : BitVec 8 :=
  (List.range 8).foldl (fun w k => setBit8 w k (v.getLsbD (s6Bit (20 + k)))) 0

/-- The 20 window bits S6 shows (R56). -/
def State.windowBits (s : State) (cn : Bool) : BitVec 20 :=
  if cn then s.window1 else Config.window0Bits

/-- PU `p` is frozen: the semaphore bit its direct access found in the wrong state is still in it
(10_state.md R71, 20_memory.md R91, R92). -/
def State.frozen (s : State) (p : PuId) : Bool :=
  match (s.pu p).waitSem with
  | none => false
  | some w => s.sem w.cluster w.index.val != w.value

/-- The four S13 bits of a PU (10_state.md R62). -/
def State.globalBits (s : State) (p : PuId) : BitVec 4 :=
  (BitVec.ofBool (s.pu p).flagW ++ BitVec.ofBool (s.frozen p) ++ BitVec.ofBool (s.pu p).flagT ++
    BitVec.ofBool (s.pu p).flagU : BitVec (1 + 1 + 1 + 1))

/-- S13 Global Status, zero-extended (R62). -/
def State.globalStatus (s : State) : Word :=
  (0#16 ++ s.globalBits .pu3 ++ s.globalBits .pu2 ++ s.globalBits .pu1 ++ s.globalBits .pu0 :
    BitVec (16 + 4 + 4 + 4 + 4))

/-- S14 with its ADDR field, bits 29:0, replaced (10_state.md R63). -/
def withInterruptAddress (w : Word) (a : BitVec 30) : Word := (w.extractLsb' 30 2 ++ a : BitVec (2 + 30))

/-! ### PuMasks, mode bits, privileged registers -/

/-- The PUs a PuMask selects: bit i names PU# i (R315). -/
def targets (m : BitVec 4) : List PuId := PuId.all.filter (fun p => m.getLsbD p.number)

/-- Mode-bit numbers without a mode bit (R316). -/
def modeBitReserved (n : Fin 16) : Bool := [5, 6, 7, 8, 9, 14, 15].contains n.val

/-- `ModeBitCheck` of R316 raises: a reserved bit, or bits 8..15 in user mode. -/
def PU.modeBitDenied (u : PU) (n : Fin 16) : Bool := modeBitReserved n || (u.flagU && decide (8 ≤ n.val))

/-- The special registers that every reading of 90_conflicts.md C9 makes privileged: S4, S7 to S9, S14,
S15 (10_state.md R66). -/
def privSRegs : List SReg :=
  [.test, .statusSave, .trapArgument, .pcSaveQueue, .interruptArgument, .pageTableOrigin]

/-- PRIV_SREGS: those, and the parameter's (10_state.md R66, L24). -/
def State.privileged (s : State) (sp : SReg) : Bool :=
  privSRegs.contains sp || s.params.privExtra.contains sp

/-- A special register the executing PU may not name: privileged, in user mode (R169, R170). -/
def State.sregDenied (s : State) (sp : SReg) : Bool := s.cpu.flagU && s.privileged sp

end Sys2Proof.Machine
end

