-- ==== Sys2Proof/Machine/Translate.lean ====
section
/-! DEFINITION. Translation and protection (20_memory.md R95 to R97): the TLB, the walk it stands for
(L5, L6). Whether an access may be made also depends on the data cache's tags: Machine/Cache.lean. -/

namespace Sys2Proof.Machine

/-- The kind of an access (R95). -/
inductive AccessKind where
  | fetch | load | store
deriving DecidableEq, Repr

/-- The faults translation can raise (R96): page not present, protection violated, failed access to
another node. -/
inductive MemFault where
  | pageFault | accessFault | nodeBusy
deriving DecidableEq, Repr

/-- Where an access that raises nothing goes: this chip's memory, or another node (R95). -/
inductive Place where
  | here (pa : PAddr) (desc : PageDesc)
  | remote
deriving DecidableEq, Repr

/-- Tags of free values that belong to an address: class `c < 16`, above every fixed tag (L9). -/
def tagAt (c : Nat) (a : BitVec 32) : Nat := 1024 + 16 * a.toNat + c

/-- Tags of what another node answers (L44): whether a message access fails. -/
def tagNode (k : AccessKind) (va : VAddr) : Nat :=
  match k with
  | .fetch => tagAt 0 va
  | .load => tagAt 1 va
  | .store => tagAt 2 va

/-- The bits of a virtual address below the page number. -/
def pageShift (d : PageDesc) : Nat := 6 + d.sizeLog.val

/-- The physical address of a virtual address in the page (R95). -/
def pageAddress (d : PageDesc) (va : VAddr) : PAddr :=
  (d.frame <<< pageShift d) ||| (va &&& ~~~(0xFFFFFFFF#32 <<< pageShift d))

/-- The entry holds the virtual address's page. -/
def TlbEntry.covers (e : TlbEntry) (va : VAddr) : Bool := va >>> pageShift e.desc == e.page

/-- The TLB's answer for a virtual address (R97). -/
def tlbFind (tlb : List TlbEntry) (va : VAddr) : Option PageDesc :=
  match tlb.find? (fun e => e.covers va) with
  | some e => some e.desc
  | none => none

/-- The page of a virtual address: from the TLB, or on a miss from the table at S15 (R97). The walk sees
memory as data accesses see it, stores still in the data cache included: the spec leaves open whether
they must be written back first (45_control.md R312; L5, DESIGN CHOICE). -/
def State.pageOf (s : State) (va : VAddr) : Option PageDesc :=
  match tlbFind s.tlb va with
  | some d => some d
  | none => Config.pageWalk s.s15 s.mem va

/-- The access violates the page's protection (R96). -/
def pageDenies (d : PageDesc) (kind : AccessKind) (user : Bool) : Bool :=
  (user && !d.user) ||
    match kind with
    | .fetch => false
    | .load => d.executeOnly
    | .store => d.executeOnly || d.readOnly

/-- The TLB after translating a virtual address for an access that raises nothing: a walk on a miss adds its
entry (R97). That a walk whose access then faults adds none is DESIGN CHOICE (L6). -/
def State.fillTlb (s : State) (va : VAddr) : State :=
  match tlbFind s.tlb va with
  | some _ => s
  | none =>
    match Config.pageWalk s.s15 s.mem va with
    | none => s
    | some d => { s with tlb := ⟨va >>> pageShift d, d⟩ :: s.tlb }

end Sys2Proof.Machine
end

