-- ==== Sys2Proof/Machine/Cache.lean ====
section
/-! DEFINITION. The caches (20_memory.md R100 to R102, 44_cache_control.md R300). `State.mem` is memory
as data accesses see it; a line of the data cache keeps, in `backing`, what Main Memory holds of it
where that may differ, and in `unstored` the words that CDC made and nothing has stored (L7). The
instruction cache is a list of copied lines, beside which the stores that a fetch may miss are recorded (L8). -/

namespace Sys2Proof.Machine

/-! ### Lines and sets -/

/-- Bytes of a line: 4 * LINE_WORDS (R101). -/
def State.lineBytes (s : State) : Nat := 4 * 2 ^ s.params.lineLog.val

/-- Every word of a line, a bit each. -/
def State.allWords (s : State) : BitVec 16 := BitVec.ofNat 16 (2 ^ (s.lineBytes / 4) - 1)

/-- The address of the line that holds a byte, `line(a)` of R300. -/
def State.lineBase (s : State) (pa : PAddr) : PAddr := pa &&& ~~~(BitVec.ofNat 32 (s.lineBytes - 1))

/-- `set(a)` of R300: bits 7:4 of the word address. -/
def setIndex (pa : PAddr) : Fin 16 := (pa.extractLsb' 6 4).toFin

/-- A set of the data cache. -/
def State.cacheSet (s : State) (i : Fin 16) : CacheSet := s.dcache[i.val]

/-- The data cache with one set replaced. -/
def putSet (c : Vector CacheSet 16) (i : Fin 16) (x : CacheSet) : Vector CacheSet 16 :=
  c.set i.val x i.isLt

/-- An entry of a set. -/
def CacheSet.way (c : CacheSet) (w : Fin 4) : CacheLine := c.ways[w.val]

/-- The entry of a set that holds a line, if one does (R300). -/
def CacheSet.findWay (c : CacheSet) (base : PAddr) : Option (Fin 4) :=
  [0, 1, 2, 3].find? (fun w => (c.way w).valid && (c.way w).base == base)

/-- `LRU(s)` of R300: the first of the recency order. -/
def CacheSet.lru (c : CacheSet) : Fin 4 := c.order.headD 0

/-- The recency order with an entry most recently used. -/
def useWay (order : List (Fin 4)) (w : Fin 4) : List (Fin 4) := order.erase w ++ [w]

/-- The recency order with an entry made LRU (R300). -/
def lruWay (order : List (Fin 4)) (w : Fin 4) : List (Fin 4) := w :: order.erase w

/-- A set with one entry and the recency order replaced. -/
def CacheSet.put (c : CacheSet) (w : Fin 4) (e : CacheLine) (order : List (Fin 4)) : CacheSet :=
  ⟨c.ways.set w.val e w.isLt, order⟩

/-! ### The outcome of an access -/

/-- The data cache's entry of the line that holds `pa`, if the line is in it (R300). -/
def State.lineAt (s : State) (pa : PAddr) : Option CacheLine :=
  match (s.cacheSet (setIndex pa)).findWay (s.lineBase pa) with
  | none => none
  | some w => some ((s.cacheSet (setIndex pa)).way w)

/-- The tag of a line in the data cache forbids a data access: its U, "compared to PU state", says system
and the PU is in user mode (20_memory.md R101, L7). -/
def State.tagDenies (s : State) (pa : PAddr) (kind : AccessKind) (user : Bool) : Bool :=
  kind != .fetch && user &&
    match s.lineAt pa with
    | none => false
    | some e => !e.user

/-- `Translate(va, kind, user)` of R95, and the tag's protection (R101). A page fault is found before a
protection fault (L5); whether an access to another node fails is a free bit (L44). -/
def State.translate (s : State) (va : VAddr) (kind : AccessKind) (user : Bool) : Except MemFault Place :=
  match s.pageOf va with
  | none => .error .pageFault
  | some d =>
    if pageDenies d kind user then .error .accessFault
    else if d.message then
      (if Config.freeBit s.tick (tagNode kind va) then .error .nodeBusy else .ok .remote)
    else if s.tagDenies (pageAddress d va) kind user then .error .accessFault
    else .ok (.here (pageAddress d va) d)

/-! ### Main Memory under the data cache -/

/-- Memory with a line's Main Memory contents shown again. -/
def restoreLine (m : Memory) (base : PAddr) (backing : Option (List Byte)) : Memory :=
  match backing with
  | none => m
  | some bytes => writeBytes m base.toNat bytes

/-- The entry holds bytes that Main Memory never gets: words that nothing has stored since CDC made the line
(R290), or, in a clean line, what Main Memory does not hold (R102). -/
def CacheLine.discards (e : CacheLine) : Bool :=
  e.valid && (e.unstored != 0 || !e.dirty && e.backing.isSome)

/-- A line's bytes in Main Memory after the words outside `unstored` are written back: theirs are `m`'s at
`a`, the others stay as `kept` has them (R290). -/
def writeBackBytes (m : Memory) (a : Nat) (unstored : BitVec 16) (kept : List Byte) : List Byte :=
  (List.range kept.length).map
    (fun k => if unstored.getLsbD (k / 4) then kept.getD k 0 else readByte m (a + k))

/-- What Main Memory holds of an entry's line once a dirty one is written back, where that may differ from
what loads see: all of a dirty line is written but the words that nothing has stored (R290, R300), and
nothing of a clean one. -/
def CacheLine.writtenBack (e : CacheLine) (m : Memory) : Option (List Byte) :=
  if e.dirty then
    if e.unstored = 0 then none else e.backing.map (writeBackBytes m e.base.toNat e.unstored)
  else e.backing

/-- Memory after an entry is written back if dirty, and leaves the cache (R300): loads see Main Memory. -/
def evictLine (m : Memory) (e : CacheLine) : Memory :=
  if e.valid then restoreLine m e.base (e.writtenBack m) else m

/-- What Main Memory holds of a line. -/
def State.mainLine (s : State) (base : PAddr) : List Byte :=
  let c := s.cacheSet (setIndex base)
  match c.findWay base with
  | some w => (c.way w).backing.getD (readBytes s.mem base.toNat s.lineBytes)
  | none => readBytes s.mem base.toNat s.lineBytes

/-! ### The data cache under loads and stores (R101, R300; L7) -/

/-- The entry that a miss of a line replaces, if the line misses. -/
def State.victim (s : State) (pa : PAddr) : Option CacheLine :=
  let c := s.cacheSet (setIndex pa)
  match c.findWay (s.lineBase pa) with
  | some _ => none
  | none => some (c.way c.lru)

/-- The words of `unstored` but the one that holds `pa`. A word of which StB stored one byte counts as
stored; DESIGN CHOICE (L42). -/
def CacheLine.unstoredAfter (e : CacheLine) (pa : PAddr) : BitVec 16 :=
  e.unstored &&& ~~~(1#16 <<< ((pa.toNat - e.base.toNat) / 4))

/-- A hit's entry after an access at `pa`: a store marks it dirty and its word stored (R290), and Main Memory
keeps what it held. -/
def CacheLine.onHit (e : CacheLine) (pa : PAddr) (store : Bool) (current : List Byte) : CacheLine :=
  if store then
    { e with dirty := true, backing := some (e.backing.getD current), unstored := e.unstoredAfter pa }
  else e

/-- A line brought in by a miss, R and U from its page table entry (R101). -/
def CacheLine.filled (d : PageDesc) (base : PAddr) (store : Bool) (current : List Byte) : CacheLine :=
  ⟨true, store, d.readOnly, d.user, base, if store then some current else none, 0⟩

/-- The data cache and memory after a load or, before its bytes change, a store at `pa`. -/
def State.useLine (s : State) (pa : PAddr) (d : PageDesc) (store : Bool) : State :=
  let base := s.lineBase pa
  let i := setIndex pa
  let c := s.cacheSet i
  match c.findWay base with
  | some w =>
    let e := (c.way w).onHit pa store (readBytes s.mem base.toNat s.lineBytes)
    { s with dcache := putSet s.dcache i (c.put w e (useWay c.order w)) }
  | none =>
    let m := evictLine s.mem (c.way c.lru)
    let e := CacheLine.filled d base store (readBytes m base.toNat s.lineBytes)
    { s with mem := m, dcache := putSet s.dcache i (c.put c.lru e (useWay c.order c.lru)) }

/-! ### The data cache instructions (44_cache_control.md R290 to R299) -/

/-- An entry invalid and unmodified. -/
def CacheLine.invalidated (e : CacheLine) : CacheLine :=
  { e with valid := false, dirty := false, backing := none, unstored := 0 }

/-- FDC's effect on memory and the data cache (R291). -/
def State.flushLine (s : State) (pa : PAddr) : State :=
  let i := setIndex pa
  let c := s.cacheSet i
  match c.findWay (s.lineBase pa) with
  | none => s
  | some w =>
    { s with
      mem := evictLine s.mem (c.way w)
      dcache := putSet s.dcache i (c.put w (c.way w).invalidated (lruWay c.order w)) }

/-- IDC's effect on memory and the data cache (R292). -/
def State.invalidateLine (s : State) (pa : PAddr) : State :=
  let i := setIndex pa
  let c := s.cacheSet i
  match c.findWay (s.lineBase pa) with
  | none => s
  | some w =>
    { s with
      mem := restoreLine s.mem (c.way w).base (c.way w).backing
      dcache := putSet s.dcache i (c.put w (c.way w).invalidated (lruWay c.order w)) }

/-- UDC's effect on the data cache (R298): the line is written back as an evicted one is, and stays. -/
def State.updateLine (s : State) (pa : PAddr) : State :=
  let i := setIndex pa
  let c := s.cacheSet i
  match c.findWay (s.lineBase pa) with
  | none => s
  | some w =>
    let e := c.way w
    if e.dirty then
      { s with dcache := putSet s.dcache i (c.put w { e with dirty := false, backing := e.writtenBack s.mem } c.order) }
    else s

/-- VDC's effect on the data cache (R299). -/
def State.validateLine (s : State) (pa : PAddr) : State :=
  let i := setIndex pa
  let c := s.cacheSet i
  match c.findWay (s.lineBase pa) with
  | none => s
  | some w =>
    let e := c.way w
    if e.dirty then
      { s with dcache := putSet s.dcache i (c.put w { e with dirty := false } c.order) }
    else s

/-- Bytes of a line that nothing specifies, class `c` (R290, L42). -/
def freeBytes (tick c : Nat) (base : PAddr) (n : Nat) : List Byte :=
  (List.range n).map (fun k => (Config.freeWord tick (tagAt c (base + BitVec.ofNat 32 k))).extractLsb' 0 8)

/-- CDC's effect on memory and the data cache (R290): the LRU entry is written back if modified and takes the
line, unmodified, its data unspecified and no word of it stored. Another entry that held the line is dropped,
and what Main Memory then holds of it is free (U12, L42). The recency order stays, so the line's entry is still
the set's least recently used (L42, DESIGN CHOICE: R290 does not say). -/
def State.createLine (s : State) (pa : PAddr) (d : PageDesc) : State :=
  let base := s.lineBase pa
  let i := setIndex pa
  let c := s.cacheSet i
  let w := c.lru
  let m := evictLine s.mem (c.way w)
  let fresh := freeBytes s.tick 5 base s.lineBytes
  match c.findWay base with
  | some v =>
    let main := if v = w then readBytes m base.toNat s.lineBytes else freeBytes s.tick 6 base s.lineBytes
    let e : CacheLine := ⟨true, false, d.readOnly, d.user, base, some main, s.allWords⟩
    { s with
      mem := writeBytes m base.toNat fresh
      dcache := putSet s.dcache i ((c.put v (c.way v).invalidated c.order).put w e c.order) }
  | none =>
    let main := readBytes m base.toNat s.lineBytes
    let e : CacheLine := ⟨true, false, d.readOnly, d.user, base, some main, s.allWords⟩
    { s with
      mem := writeBytes m base.toNat fresh
      dcache := putSet s.dcache i (c.put w e c.order) }

/-- Tag of "a line transfer is in progress" (R295, L43). -/
def tagTransfer : Nat := 81

/-- No other line transfer is in progress: invisible to the program, a free bit (R295, L43). -/
def State.transferFree (s : State) : Bool := Config.freeBit s.tick tagTransfer

/-- PDC's effect: the line is brought in if it is not there and no transfer is in progress (R295). That its
entry becomes the set's most recently used is DESIGN CHOICE (L43): R295 does not say. -/
def State.prefetchData (s : State) (pa : PAddr) (d : PageDesc) : State :=
  match (s.cacheSet (setIndex pa)).findWay (s.lineBase pa) with
  | some _ => s
  | none =>
    let t := s.useLine pa d false
    { s with
      mem := if s.transferFree then t.mem else s.mem
      dcache := if s.transferFree then t.dcache else s.dcache }

/-! ### The instruction cache (R100, R293, R294, R296, R297) -/

/-- The instruction cache's copy of a line. -/
def State.fetchCopy (s : State) (base : PAddr) : Option (List Byte) :=
  match s.icache.find? (fun l => l.base == base) with
  | some l => some l.bytes
  | none => none

/-- The instruction cache after a miss brings a line in from Main Memory. -/
def State.fillFetch (s : State) (base : PAddr) : State :=
  match s.fetchCopy base with
  | some _ => s
  | none => { s with icache := ⟨base, s.mainLine base⟩ :: s.icache }

/-- PIC's effect (R296, R297). -/
def State.prefetchInst (s : State) (pa : PAddr) : State :=
  let base := s.lineBase pa
  match s.fetchCopy base with
  | some _ => s
  | none =>
    { s with icache := if s.transferFree then ⟨base, s.mainLine base⟩ :: s.icache else s.icache }

/-- The halfword at `off` in a line's bytes. -/
def halfAt (o : ByteOrder) (bytes : List Byte) (off : Nat) : Half :=
  halfOfBytes o (bytes.getD off 0) (bytes.getD (off + 1) 0)

/-- The halfword at a physical address as data accesses see it. -/
def State.halfIn (s : State) (pa : PAddr) : Half :=
  halfOfBytes s.params.byteOrder (readByte s.mem pa.toNat) (readByte s.mem (pa.toNat + 1))

/-- The halfword that Main Memory holds at a physical address. -/
def State.mainHalf (s : State) (pa : PAddr) : Half :=
  halfAt s.params.byteOrder (s.mainLine (s.lineBase pa)) (pa.toNat - (s.lineBase pa).toNat)

/-- What is recorded of the stores to a halfword (R100). -/
def State.storedHalf (s : State) (pa : PAddr) : Option StoredHalf := s.stored.find? (fun r => r.addr == pa)

/-- What a fetch of the halfword at `pa` may return (R100): the instruction cache's copy, if it holds one,
what Main Memory holds, and while R100's sequence has not followed the last store, every value of the record.
What loads see of a line is not among them (R293). DESIGN CHOICE (L8): a copy that differs from Main Memory
with no store recorded may be returned or not. -/
def State.fetchChoices (s : State) (pa : PAddr) : List Half :=
  (match s.fetchCopy (s.lineBase pa) with
    | some bytes => [halfAt s.params.byteOrder bytes (pa.toNat - (s.lineBase pa).toNat)]
    | none => []) ++
  s.mainHalf pa :: (match s.storedHalf pa with
    | some r => r.values
    | none => [])

/-- The halfword a fetch returns: a free one of what it may return (R100). -/
def State.fetched (s : State) (pa : PAddr) : Half :=
  if (s.fetchChoices pa).all (· == s.mainHalf pa) then s.mainHalf pa
  else (s.fetchChoices pa).getD
    ((Config.freeWord s.tick (tagAt 3 pa)).toNat % (s.fetchChoices pa).length) (s.mainHalf pa)

/-- A store has changed the halfword at `pa`: a fetch may now return what it might have before, or the new
value (R100). -/
def State.noteHalf (s : State) (pa : PAddr) : State :=
  { s with
    stored := ⟨pa, (s.fetchChoices pa).foldr List.insert [s.halfIn pa], false⟩ ::
      s.stored.filter (fun r => r.addr != pa) }

/-- The line of `pa` is written back by FDC or UDC, the first half of R100's sequence. -/
def State.noteWritten (s : State) (pa : PAddr) : State :=
  { s with
    stored := s.stored.map (fun r => { r with written := r.written || s.lineBase r.addr == s.lineBase pa }) }

/-- IIC's effect (R293), and the end of R100's sequence for what was written back before. -/
def State.dropFetch (s : State) (pa : PAddr) : State :=
  { s with
    icache := s.icache.filter (fun l => l.base != s.lineBase pa)
    stored := s.stored.filter (fun r => !(r.written && s.lineBase r.addr == s.lineBase pa)) }

/-- IICa's effect (R294), and the end of R100's sequence for what was written back before. -/
def State.dropAllFetch (s : State) : State :=
  { s with icache := [], stored := s.stored.filter (fun r => !r.written) }

end Sys2Proof.Machine
end

