-- ==== Sys2Proof/Machine/Access.lean ====
section
/-! DEFINITION. The accesses of R85 to R87 (20_memory.md): data words and bytes, instruction fetch; and
the traps their faults raise (60_exceptions.md R356 to R358). -/

namespace Sys2Proof.Machine

/-- The TLB, the data cache and memory after an access that raises nothing, before a store's bytes
change. -/
def State.accessed (s : State) (va : VAddr) (pa : PAddr) (d : PageDesc) (store : Bool) : State :=
  (s.fillTlb va).useLine pa d store

/-- `MemRead(4 * wa, 4)` as a load (R85); from another node, a free word (L44). -/
def State.loadWord (s : State) (wa : WAddr) : Except MemFault (Word × State) :=
  let va := byteOfWord wa
  match s.translate va .load s.cpu.flagU with
  | .error f => .error f
  | .ok .remote => .ok (Config.freeWord s.tick (tagAt 7 va), s.fillTlb va)
  | .ok (.here pa d) =>
    let t := s.accessed va pa d false
    .ok (readWord s.params.byteOrder t.mem pa.toNat, t)

/-- `MemRead(va, 1)` (R85); from another node, a free byte (L44). -/
def State.loadByte (s : State) (va : VAddr) : Except MemFault (Byte × State) :=
  match s.translate va .load s.cpu.flagU with
  | .error f => .error f
  | .ok .remote => .ok ((Config.freeWord s.tick (tagAt 8 va)).extractLsb' 0 8, s.fillTlb va)
  | .ok (.here pa d) =>
    let t := s.accessed va pa d false
    .ok (readByte t.mem pa.toNat, t)

/-- `MemWrite(4 * wa, 4, v)` (R86); to another node, nothing changes here (L44). -/
def State.storeWord (s : State) (wa : WAddr) (v : Word) : Except MemFault State :=
  let va := byteOfWord wa
  match s.translate va .store s.cpu.flagU with
  | .error f => .error f
  | .ok .remote => .ok (s.fillTlb va)
  | .ok (.here pa d) =>
    let t := s.accessed va pa d true
    .ok (({ t with mem := writeWord s.params.byteOrder t.mem pa.toNat v }.noteHalf pa).noteHalf (pa + 2))

/-- The address of the halfword that holds a byte. -/
def halfBase (pa : PAddr) : PAddr := pa &&& ~~~1

/-- `MemWrite(va, 1, b)` (R86). -/
def State.storeByte (s : State) (va : VAddr) (b : Byte) : Except MemFault State :=
  match s.translate va .store s.cpu.flagU with
  | .error f => .error f
  | .ok .remote => .ok (s.fillTlb va)
  | .ok (.here pa d) =>
    let t := s.accessed va pa d true
    .ok ({ t with mem := writeByte t.mem pa.toNat b }.noteHalf (halfBase pa))

/-- `MemRead(2 * h, 2)` as a fetch (R87); from another node, a free halfword (L44). -/
def State.fetchHalf (s : State) (h : HAddr) : Except MemFault (Half × State) :=
  let va := byteOfHalf h
  match s.translate va .fetch s.cpu.flagU with
  | .error f => .error f
  | .ok .remote => .ok ((Config.freeWord s.tick (tagAt 9 va)).extractLsb' 0 16, s.fillTlb va)
  | .ok (.here pa _) => .ok (s.fetched pa, (s.fillTlb va).fillFetch (s.lineBase pa))

/-- The trap number of a data fault (R96, R357). -/
def dataFaultNumber : MemFault → Fin 32
  | .pageFault => numDataPage
  | .accessFault => numDataAccess
  | .nodeBusy => numNodeBusy

/-- The trap number of a fetch fault (R96, R358). -/
def fetchFaultNumber : MemFault → Fin 32
  | .pageFault => numInstPage
  | .accessFault => numInstAccess
  | .nodeBusy => numNodeBusy

/-- The state with S8 Trap Argument written, where traps are enabled; with T = 0 the entry is a Machine
Check, which has no argument (R344, R352). -/
def State.recordArgument (s : State) (ptr : Word) : State :=
  s.modCpu (fun u => if u.flagT then { u with trapArg := ptr } else u)

/-- A data access faults: the address into S8 in the format of R82, then the trap (R357). -/
def State.dataFault (s : State) (f : MemFault) (ptr : Word) : State :=
  (s.recordArgument ptr).raise (dataFaultNumber f)

/-- A fetch faults: SH tells which half, then the trap (R358). That a failed fetch from another node takes
Node Busy, with the halfword's byte pointer recorded, is DESIGN CHOICE (L44): R87 and R358 name 0x12 and 0x14
only, R85 and R96 allow it. -/
def State.fetchFault (s : State) (second : Bool) (f : MemFault) (h : HAddr) : State :=
  let s1 := s.modCpu (fun u => u.withBit bitSH second)
  match f with
  | .nodeBusy => (s1.recordArgument (pointerTo (byteOfHalf h))).raise (fetchFaultNumber f)
  | .pageFault | .accessFault => s1.raise (fetchFaultNumber f)

/-- A word load into `rb`, or its fault; then the program counters advance as `adv` says. -/
def State.loadInto (s : State) (rb : Reg) (wa : WAddr) (adv : State → State) : State :=
  match s.loadWord wa with
  | .error f => s.dataFault f (zeroExtend30 wa)
  | .ok (v, t) => adv (t.wr rb v)

/-- A word store of `v`, or its fault; then the program counters advance as `adv` says. -/
def State.storeFrom (s : State) (wa : WAddr) (v : Word) (adv : State → State) : State :=
  match s.storeWord wa v with
  | .error f => s.dataFault f (zeroExtend30 wa)
  | .ok t => adv t

end Sys2Proof.Machine
end

