-- ==== Sys2Proof/Machine/CacheControl.lean ====
section
/-! DEFINITION. Cache control instructions (44_cache_control.md R290 to R301). -/

namespace Sys2Proof.Machine

/-- `CacheAddrCheck(a, kind)` of R301, then the operation. A protection violation is trap 0x15; what a
page fault or a failed remote access does is a parameter, an address in another node has no line here
(U12, L42). -/
def State.cacheOp (s : State) (a : WAddr) (kind : AccessKind)
    (op : State → PAddr → PageDesc → State) : State :=
  match s.translate (byteOfWord a) kind s.cpu.flagU with
  | .error .accessFault => s.dataFault .accessFault (zeroExtend30 a)
  | .error .pageFault =>
    if Config.cacheOpTraps then s.dataFault .pageFault (zeroExtend30 a) else s.advance
  | .error .nodeBusy =>
    if Config.cacheOpTraps then s.dataFault .nodeBusy (zeroExtend30 a) else s.advance
  | .ok .remote => (s.fillTlb (byteOfWord a)).advance
  | .ok (.here pa d) => (op (s.fillTlb (byteOfWord a)) pa d).advance

/-- CDC (R290). -/
def execCdc (ra : Reg) (s : State) : Out :=
  .next (s.cacheOp (wordAddress (s.rd ra) 0) .store State.createLine)

/-- FDC (R291). -/
def execFdc (ra : Reg) (s : State) : Out :=
  .next (s.cacheOp (wordAddress (s.rd ra) 0) .load (fun t pa _ => (t.flushLine pa).noteWritten pa))

/-- IDC (R292). -/
def execIdc (ra : Reg) (s : State) : Out :=
  .next (s.cacheOp (wordAddress (s.rd ra) 0) .store (fun t pa _ => t.invalidateLine pa))

/-- UDC (R298). -/
def execUdc (ra : Reg) (s : State) : Out :=
  .next (s.cacheOp (wordAddress (s.rd ra) 0) .load (fun t pa _ => (t.updateLine pa).noteWritten pa))

/-- VDC (R299). -/
def execVdc (ra : Reg) (s : State) : Out :=
  .next (s.cacheOp (wordAddress (s.rd ra) 0) .store (fun t pa _ => t.validateLine pa))

/-- PDC (R295). -/
def execPdc (ra : Reg) (s : State) : Out :=
  .next (s.cacheOp (wordAddress (s.rd ra) 0) .load State.prefetchData)

/-- IIC (R293). -/
def execIic (ra : Reg) (s : State) : Out :=
  .next (s.cacheOp (wordAddress (s.rd ra) 0) .load (fun t pa _ => t.dropFetch pa))

/-- IICa (R294): privileged. -/
def execIicA (s : State) : Out :=
  if s.cpu.flagU then .next s.raiseIllegal else .next s.dropAllFetch.advance

/-- PIC, register form (R297). -/
def execPicA (ra : Reg) (s : State) : Out :=
  .next (s.cacheOp (wordAddress (s.rd ra) 0) .load (fun t pa _ => t.prefetchInst pa))

/-- The word that holds a halfword (R296). -/
def wordOfHalf (h : HAddr) : WAddr := h >>> 1

/-- PIC, relative form (R296). -/
def execPicR (disp : Int) (s : State) : Out :=
  .next (s.cacheOp (wordOfHalf (s.cpu.pc + BitVec.ofInt 30 disp)) .load (fun t pa _ => t.prefetchInst pa))

end Sys2Proof.Machine
end

