-- ==== Sys2Proof/Machine/CompareBranch.lean ====
section
/-! DEFINITION. Compare, test, branch, jump and skip instructions (42_compare_branch.md R230 to R242). -/

namespace Sys2Proof.Machine

/-- The flags of a comparison (R233). -/
def compareFlags (b a : Word) : Flags where
  n := decide (b.toInt < a.toInt)
  z := b == a
  v := false
  c0 := decide (a.toNat ≤ b.toNat)
  c1 := false
  c2 := false
  c3 := false

/-- Cmp (R233). -/
def execCmp (rb ra : Reg) (s : State) : Out :=
  .next (s.setFlags (compareFlags (s.rd rb) (s.rd ra))).advance

/-- Compare Immediate (R234). -/
def execCmpI (rb : Reg) (imm : Nat) (s : State) : Out :=
  .next (s.setFlags (compareFlags (s.rd rb) (BitVec.ofNat 32 imm))).advance

/-- CmpP (R235): the flags of a partial subtraction. -/
def execCmpP (rb ra : Reg) (s : State) : Out :=
  .next (s.setFlags
    (partialCore s.cpu.flagH (s.rd rb) (~~~(s.rd ra)) (fun _ => true)).2).advance

/-- Tag of N and Z of TstF under an illegal field definition (U1, L33). -/
def tagTestField : Nat := 93

/-- TstF (R241). -/
def execTstF (ra : Reg) (s : State) : Out :=
  let x := s.rd ra
  match s.cpu.mask.field? with
  | some (p, l) => .next (s.setNZ (x.getLsbD l.val) ((x &&& fieldMask p l) >>> p.val == 0)).advance
  | none => .next (s.setNZ (Config.freeBit s.tick tagTestField)
      (Config.freeBit s.tick (tagTestField + 1))).advance

/-- TstM (R242): C0 receives the bit of Status_Save, C1 to C3 are cleared. -/
def execTstM (bit : Fin 16) (s : State) : Out :=
  if s.cpu.modeBitDenied bit then .next s.raiseIllegal
  else .next (s.setCarry (s.cpu.savedStatus.getLsbD bit.val)).advance

/-- Bcc (R232). -/
def execBcc (cc : Cc) (disp : Int) (s : State) : Out :=
  if s.cond cc then .next (s.takeBranch (pcAdd s.cpu.pc disp)) else .next s.advanceBranch

/-- Jmp, relative (R236). -/
def execJmpR (disp : Int) (s : State) : Out := .next (s.takeBranch (pcAdd s.cpu.pc disp))

/-- Jmp, absolute (R237). -/
def execJmpA (ra : Reg) (s : State) : Out := .next (s.takeBranch (addressOf (s.rd ra)))

/-- The link register R4 (10_state.md R21). -/
def linkReg : Reg := 4

/-- JmpL (R238): the target is read before R4 is written; the link is a register's value, modulo 2^30. -/
def execJmpL (ra : Reg) (s : State) : Out :=
  let t := addressOf (s.rd ra)
  .next ((s.wr linkReg (zeroExtend30 (s.cpu.npc + 1))).takeBranch t)

/-- AdPC (R231). -/
def execAdPC (ra : Reg) (s : State) : Out :=
  .next (s.wr ra (s.rd ra + zeroExtend30 (s.cpu.pc + 1))).advance

/-- Skcc (R240): the skip is carried in SSCR.S. -/
def execSkcc (cc : Cc) (s : State) : Out :=
  if s.cond cc then .next (s.modCpu (fun u => u.withBit bitS true)).advanceBranch
  else .next s.advanceBranch

end Sys2Proof.Machine
end

