-- ==== Sys2Proof/Machine/Counters.lean ====
section
/-! DEFINITION. The event counters S10 and S11 under S12 (60_exceptions.md R361, 10_state.md R61). The
count of instructions is the spec's; every other source advances a counter by a free amount (L41). -/

namespace Sys2Proof.Machine

/-- The instructions a step of a PU counts as, by what it did: the cases R361 leaves open are parameters. -/
def instructionCount (e : StepEvent) : Nat :=
  match e with
  | .finished => 1
  | .finishedExtended => if Config.countsExtendedTwice then 2 else 1
  | .skipped => if Config.countsSkipped then 1 else 0
  | .trapped | .finishedTrapping => if Config.countsTrapped then 1 else 0
  | .idle | .interrupted | .waiting => 0

/-- A PU by its number, modulo 4. -/
def puOf (n : BitVec 2) : PuId :=
  if n = 0 then .pu0 else if n = 1 then .pu1 else if n = 2 then .pu2 else .pu3

/-- The instructions PU `p` finishes in user mode, or in system mode, in this step, which its own PU began
in user mode or not: its own, and a Wait that ends (R361, 10_state.md R61). -/
def State.finishedBy (s : State) (p : PuId) (began mode : Bool) : Nat :=
  (if p = s.turn ∧ began = mode then instructionCount s.event else 0) +
    (if (s.pu p).waitEnded = true ∧ (s.pu p).flagU = mode then 1 else 0)

/-- How far a counter with configuration half `cfg` advances in this step (R361). -/
def State.counterAmount (s : State) (cfg : BitVec 8) (began : Bool) (free : Nat) : Nat :=
  let p := puOf (cfg.extractLsb' 0 2)
  if cfg.getLsbD 3 then free
  else if !cfg.getLsbD 5 && !cfg.getLsbD 4 then 0
  else if cfg.getLsbD 2 then free
  else
    (if cfg.getLsbD 5 then s.finishedBy p began false else 0) +
      (if cfg.getLsbD 4 then s.finishedBy p began true else 0)

/-- The overflow bit of a configuration half after its counter advances (R361). -/
def counterConfig (cfg : BitVec 8) (v : Word) (amount : Nat) : BitVec 8 :=
  if 2 ^ 32 ≤ v.toNat + amount then cfg ||| 0x40 else cfg

/-- Tag of the amount S10 advances by. -/
def tagCounter1 : Nat := 82

/-- Tag of the amount S11 advances by. -/
def tagCounter2 : Nat := 83

/-- The half of S12 that configures S10 (S12Half, L21). -/
def State.config1 (s : State) : BitVec 8 :=
  if Config.s12UpperIsS10 then s.s12.extractLsb' 8 8 else s.s12.extractLsb' 0 8

/-- The half of S12 that configures S11 (S12Half, L21). -/
def State.config2 (s : State) : BitVec 8 :=
  if Config.s12UpperIsS10 then s.s12.extractLsb' 0 8 else s.s12.extractLsb' 8 8

/-- How far S10 advances in this step. -/
def State.amount1 (s : State) (user : Bool) : Nat :=
  s.counterAmount s.config1 user (Config.freeWord s.tick tagCounter1).toNat

/-- How far S11 advances in this step. -/
def State.amount2 (s : State) (user : Bool) : Nat :=
  s.counterAmount s.config2 user (Config.freeWord s.tick tagCounter2).toNat

/-- The event counters after a step whose instruction began in user mode or not (R361). -/
def State.count (s : State) (user : Bool) : State :=
  let c1 := counterConfig s.config1 s.s10 (s.amount1 user)
  let c2 := counterConfig s.config2 s.s11 (s.amount2 user)
  { s with
    s10 := s.s10 + BitVec.ofNat 32 (s.amount1 user)
    s11 := s.s11 + BitVec.ofNat 32 (s.amount2 user)
    s12 := if Config.s12UpperIsS10 then (c1 ++ c2 : BitVec (8 + 8)) else (c2 ++ c1 : BitVec (8 + 8)) }

end Sys2Proof.Machine
end

