-- ==== Sys2Proof/Machine/Interrupts.lean ====
section
/-! DEFINITION. Interrupts (60_exceptions.md R342 to R348): which PU may accept which, the choice among
PUs, the priority among numbers, and the entry. Several PUs of one preference: whichever steps first
takes a nondirected interrupt (L40). -/

namespace Sys2Proof.Machine

/-- A counter has overflowed and its interrupt is enabled (R343, R348). -/
def counterPending (c : BitVec 16) : Bool :=
  (c.getLsbD 15 && c.getLsbD 14) || (c.getLsbD 7 && c.getLsbD 6)

/-- The individual enable of `n`, if it has one, is set (R343). -/
def State.enabledFor (s : State) (n : Fin 32) : Bool :=
  if n = numExternal then s.s14.getLsbD 31
  else if n = numEventCounter then counterPending s.s12
  else true

/-- `CanAccept` of R345, between instructions only: not within a LdWE or StWE, nor within a LdM or StM, whose
run only a fault interrupts (40_load_store_move.md R165, R175). -/
def State.canAccept (s : State) (p : PuId) (n : Fin 32) : Bool :=
  let u := s.pu p
  !u.rti1 && u.run.isNone && (decide (28 ≤ n.val) || (u.flagT && !s.frozen p)) && s.enabledFor n

/-- PU `p` is one of RESET_PUS (70_reset_and_hazards.md R390). -/
def State.resets (s : State) (p : PuId) : Bool := s.params.resetPus.getLsbD p.number

/-- A pushbutton Reset can be made: every PU of RESET_PUS is where it can enter (R345, R390). -/
def State.canReset (s : State) : Bool :=
  PuId.all.all (fun p => !s.resets p || s.canAccept p numReset)

/-- The preference class of R346: available, halted, running. -/
def PU.preference (u : PU) : Nat :=
  if u.savedStatus.getLsbD bitA then 0 else if u.flagW then 1 else 2

/-- The selection of R346 allows PU `p` to take the nondirected interrupt `n`. -/
def State.selected (s : State) (p : PuId) (n : Fin 32) : Bool :=
  s.canAccept p n &&
    PuId.all.all (fun q => !s.canAccept q n || decide ((s.pu p).preference ≤ (s.pu q).preference))

/-- Interrupt `n` waits for PU `p` and may be taken by it (R346, R347, R348). -/
def State.deliverable (s : State) (p : PuId) (n : Fin 32) : Bool :=
  if n = numReset then s.pend.reset && s.canReset
  else if n = numMachineCheck then s.pend.machineCheck && s.selected p n
  else if n = numRestart then
    ((s.pu p).pendRestart && s.canAccept p n) || (s.pend.restart && s.selected p n)
  else if n = numPowerFail then s.pend.powerFail && s.selected p n
  else if n = numInterPu then (s.pu p).pendInter && s.canAccept p n
  else if n = numInterChip then s.pend.interChip.isSome && s.selected p n
  else if n = numEventCounter then s.selected p n
  else if n = numExternal then s.s14.getLsbD 30 && s.selected p n
  else false

/-- The interrupt numbers by falling priority (R345). Reset here is the pushbutton, which the chip takes as
a whole, in whichever PU's step (70_reset_and_hazards.md R390, L14); the power-up reset is `State.reset`. -/
def interruptOrder : List (Fin 32) :=
  [numReset, numMachineCheck, numRestart, numPowerFail, numInterPu, numInterChip, numEventCounter,
    numExternal]

/-- The interrupt the executing PU accepts at this boundary, if any (R345). -/
def State.accepted (s : State) : Option (Fin 32) :=
  interruptOrder.find? (fun n => s.deliverable s.turn n)

/-- The cause of `n` cleared as R348 says: by entry, where no register bit shows it as pending. -/
def State.clearCause (s : State) (n : Fin 32) : State :=
  if n = numReset then { s with pend := { s.pend with reset := false } }
  else if n = numMachineCheck then { s with pend := { s.pend with machineCheck := false } }
  else if n = numRestart then
    (if s.cpu.pendRestart then s.modCpu (fun u => { u with pendRestart := false })
     else { s with pend := { s.pend with restart := false } })
  else if n = numPowerFail then { s with pend := { s.pend with powerFail := false } }
  else if n = numInterPu then s.modCpu (fun u => { u with pendInter := false })
  else if n = numInterChip then
    { s with
      pend := { s.pend with interChip := none }
      s14 := withInterruptAddress s.s14 (s.pend.interChip.getD 0) }
  else s

/-- What a Reset does to PU `p`: the entry at 0x1F with an unspecified context saved, or halted in system
mode (70_reset_and_hazards.md R390). Registers keep their contents (L14). -/
def PU.resetBy (u : PU) (p : PuId) (tick : Nat) (enters : Bool) : PU :=
  let v := (u.saveFree p tick).enterVector p tick numReset
  if enters then v else v.withBit bitW true

/-- The pushbutton Reset of the whole chip (R390). -/
def State.resetAll (s : State) : State :=
  { s with
    pu0 := s.pu0.resetBy .pu0 s.tick (s.resets .pu0)
    pu1 := s.pu1.resetBy .pu1 s.tick (s.resets .pu1)
    pu2 := s.pu2.resetBy .pu2 s.tick (s.resets .pu2)
    pu3 := s.pu3.resetBy .pu3 s.tick (s.resets .pu3) }

/-- The executing PU takes interrupt `n` with its `(pc, npc)` saved (R352, R353); a Reset is the whole
chip's (R390). -/
def State.takeInterrupt (s : State) (n : Fin 32) : State :=
  let t := s.clearCause n
  { (if n = numReset then t.resetAll else t.enter s.turn n (s.cpu.pc, s.cpu.npc)) with
    event := .interrupted }

end Sys2Proof.Machine
end

