-- ==== Sys2Proof/Machine/LoadStore.lean ====
section
/-! DEFINITION. Register load, store and move instructions (40_load_store_move.md R160 to R179). -/

namespace Sys2Proof.Machine

/-- Lcc (R161). -/
def execLcc (rb : Reg) (cc : Cc) (s : State) : Out :=
  .next (s.wr rb (if s.cond cc then 1 else 0)).advance

/-- Ld (R162). -/
def execLd (rb : Reg) (imm : Nat) (s : State) : Out := .next (s.wr rb (BitVec.ofNat 32 imm)).advance

/-- A byte as a word, its upper 24 bits clear (R163). -/
def zeroExtendByte (b : Byte) : Word := (0#24 ++ b : BitVec (24 + 8))

/-- LdB (R163): the pointer is stepped before the access. -/
def execLdB (d p : Reg) (s : State) : Out :=
  let ptr := s.rd p
  let s1 := s.wr p (nextBytePtr ptr)
  match s1.loadByte (byteOfPointer ptr) with
  | .error f => .next (s1.dataFault f ptr)
  | .ok (b, t) => .next (t.wr d (zeroExtendByte b)).advance

/-- A lane all ones where its carry is clear (R164). -/
def carryLane (w : Nat) (c : Bool) : BitVec w := if c then 0 else BitVec.allOnes w

/-- The mask LdCP makes of the carries (R164, 10_state.md R47). -/
def PU.carryMask (u : PU) : Word :=
  if u.flagH then (carryLane 16 (u.carry 0) ++ carryLane 16 (u.carry 2) : BitVec (16 + 16))
  else (carryLane 8 (u.carry 0) ++ carryLane 8 (u.carry 1) ++ carryLane 8 (u.carry 2) ++
    carryLane 8 (u.carry 3) : BitVec (8 + 8 + 8 + 8))

/-- LdCP (R164). -/
def execLdCP (ra : Reg) (s : State) : Out := .next (s.wr ra s.cpu.carryMask).advance

/-! ### Load and store multiple (R165, R175) -/

/-- A register by its number. -/
def regOf (k : Nat) : Reg := Fin.ofNat 16 k

/-- Tag of the register count after a completed LdM, and of the choice at a fault (R165, U11). -/
def tagRCnt : Nat := 86

/-- Tag of the choice of LdM's RegA at a fault on the load of R1 (U11). -/
def tagRunAddress : Nat := 87

/-- Tag of R_k after a run that overlaps its address register (U2, L29). -/
def tagRunRegister (k : Nat) : Nat := 100 + k

/-- Tag of the word stored for R_k by a run that overlaps its address register (U2, L29). -/
def tagRunWord (k : Nat) : Nat := 120 + k

/-- RegA is in the range 1 through RegB (U2). -/
def runOverlaps (rb ra : Reg) : Bool := decide (1 ≤ ra.val ∧ ra.val ≤ rb.val)

/-- RCnt at a fault on the transfer of R_k: k or k + 1 (U11, L29), in its four bits: 0 stands for 16, a
DESIGN CHOICE of L29. -/
def State.faultCount (s : State) (k : Nat) : State :=
  s.modCpu (fun u => u.withRCnt
    (if Config.freeBit s.tick tagRCnt then BitVec.ofNat 4 (k + 1) else BitVec.ofNat 4 k))

/-- R_k down to R_1 with free contents (U2). -/
def State.freeRun (s : State) : Nat → State
  | 0 => s
  | k + 1 => (s.wr (regOf (k + 1)) (Config.freeWord s.tick (tagRunRegister (k + 1)))).freeRun k

/-- RCnt after a completed LdM is unspecified (R165). -/
def State.freeCount (s : State) : State :=
  s.modCpu (fun u => u.withRCnt ((Config.freeWord s.tick tagRCnt).extractLsb' 0 4))

/-- RegA at a fault on the load of R1: its original or its incremented value (R357, U11). -/
def State.faultAddress (s : State) (ra : Reg) (a : Word) (n k : Nat) : State :=
  if k = 1 then
    s.wr ra (if Config.freeBit s.tick tagRunAddress then a + BitVec.ofNat 32 n else a)
  else s

/-- More transfers of the run are to come: the PU stays at its instruction (20_memory.md R89). -/
def State.runOn (s : State) (x : Transfer) : State :=
  (s.modCpu (fun u => { u with run := some (.move { x with next := regOf (x.next.val - 1) }) })).stay

/-- R1 to RegB with free contents, where the run overlaps its address register (U2). -/
def State.freeOverlap (s : State) (x : Transfer) : State :=
  if runOverlaps x.count x.addr then s.freeRun x.count.val else s

/-- The last load of a run is done: RegA past the words, or free with R1 to RegB (R165, U2). -/
def State.endLoads (s : State) (x : Transfer) : State :=
  (((s.wr x.addr (x.base + BitVec.ofNat 32 x.count.val)).freeOverlap x).freeCount).advance

/-- One load of LdM's run (R165): R_k from the word at RegA's first contents plus k - 1. -/
def State.loadTransfer (s : State) (x : Transfer) : State :=
  let k := x.next.val
  let wa := wordAddress x.base (k - 1)
  let s1 := s.modCpu (fun u => u.withRCnt (BitVec.ofNat 4 k))
  match s1.loadWord wa with
  | .error f =>
    ((((s1.faultCount k).faultAddress x.addr x.base x.count.val k).freeOverlap x).dataFault f
      (zeroExtend30 wa))
  | .ok (v, t) =>
    let u := t.wr x.next v
    if k ≤ 1 then u.endLoads x else u.runOn x

/-- What StM stores for R_k: its contents, or free where the run overlaps RegA (U2). -/
def State.runValue (s : State) (x : Transfer) : Word :=
  if runOverlaps x.count x.addr then Config.freeWord s.tick (tagRunWord x.next.val) else s.rd x.next

/-- One store of StM's run (R175): RegA is decremented, then R_k stored there. -/
def State.storeTransfer (s : State) (x : Transfer) : State :=
  let k := x.next.val
  let a := x.base - BitVec.ofNat 32 (x.count.val + 1 - k)
  let s1 := (s.wr x.addr a).modCpu (fun u => u.withRCnt (BitVec.ofNat 4 k))
  match s1.storeWord (addressOf a) (s.runValue x) with
  | .error f => ((s1.freeOverlap x).faultCount k).dataFault f (zeroExtend30 (addressOf a))
  | .ok t => if k ≤ 1 then (t.freeOverlap x).advance else t.runOn x

/-- One transfer of a run: one access, indivisible (20_memory.md R89). -/
def State.transferOne (s : State) (x : Transfer) : State :=
  if x.load then s.loadTransfer x else s.storeTransfer x

/-- A run goes on with its next transfer. -/
def State.continueRun (s : State) : State :=
  match s.cpu.run with
  | some (.move x) => s.transferOne x
  | some (.second _) | some (.access _) | none => s

/-- LdM (R165): its first transfer; the PU's next steps make the others. RegB = 0 is refused (U8); an
address register in the run leaves R1 to RegB free (U2). -/
def execLdM (rb ra : Reg) (s : State) : Out :=
  if rb = 0 then .refused .emptyRegisterRun else .next (s.transferOne ⟨true, rb, ra, s.rd ra, rb⟩)

/-- StM (R175): its first transfer; the PU's next steps make the others. RegB = 0 is refused (U8); an
address register in the run leaves the words stored and R1 to RegB free (U2). -/
def execStM (rb ra : Reg) (s : State) : Out :=
  if rb = 0 then .refused .emptyRegisterRun else .next (s.transferOne ⟨false, rb, ra, s.rd ra, rb⟩)

/-! ### LdW, StW and the extended forms -/

/-- The general register a Base field names (10_state.md R21). -/
def baseReg (b : Fin 4) : Reg := Fin.castLE (by decide) b

/-- LdW, base plus displacement (R166). -/
def execLdWB (rb : Reg) (base : Fin 4) (disp : Nat) (s : State) : Out :=
  .next (s.loadInto rb (wordAddress (s.rd (baseReg base)) disp) State.advance)

/-- The PU freezes on a semaphore and stays at its instruction until the bit is `value` (R91, R92, L36). -/
def State.freeze (s : State) (cn : Bool) (disp : Nat) (value : Bool) : State :=
  (s.modCpu (fun u => { u with waitSem := some ⟨cn, Fin.ofNat 8 disp, value⟩ })).stay

/-- A direct access's semaphore written at its end, where it has one (R91, R92). -/
def State.endDirect (s : State) (cn : Bool) (disp : Nat) (b : Bool) : State :=
  (if disp ≤ 7 then s.setSem cn disp b else s).advance

/-- LdW Direct (R167): frozen while the semaphore bit is clear. -/
def execLdWD (rb : Reg) (disp : Nat) (s : State) : Out :=
  let cn := s.cpu.flagCN
  if disp ≤ 7 ∧ s.sem cn disp = false then .next (s.freeze cn disp true)
  else .next (s.loadInto rb (s.directWA disp) (fun t => t.endDirect cn disp false))

/-- LdW, register indirect (R168). -/
def execLdWR (rb ra : Reg) (s : State) : Out :=
  .next (s.loadInto rb (wordAddress (s.rd ra) 0) State.advance)

/-- The instruction stands in a shadow, or after Bcc, Jmp, JmpL or Skcc (70_reset_and_hazards.md R393,
R394). Resumed after an exception, a shadow is known only by a target other than the next halfword; DESIGN
CHOICE (L28). -/
def PU.misplaced (u : PU) : Bool := u.afterBranch || u.npc != pcAdd u.pc 1

/-- LdWE (R172): its data access. Its halfwords are fetched in steps of their own (20_memory.md R89). -/
def execLdWE (rb ra : Reg) (disp : Nat) (s : State) : Out :=
  if s.cpu.misplaced then .refused .extendedAfterBranch
  else .next (s.loadInto rb (wordAddress (s.rd ra) disp) State.advanceExtended)

/-- StB (R174): the pointer is stepped before the access. -/
def execStB (d p : Reg) (s : State) : Out :=
  let ptr := s.rd p
  let b := (s.rd d).extractLsb' 0 8
  let s1 := s.wr p (nextBytePtr ptr)
  match s1.storeByte (byteOfPointer ptr) b with
  | .error f => .next (s1.dataFault f ptr)
  | .ok t => .next t.advance

/-- StW, base plus displacement (R176). -/
def execStWB (rb : Reg) (base : Fin 4) (disp : Nat) (s : State) : Out :=
  .next (s.storeFrom (wordAddress (s.rd (baseReg base)) disp) (s.rd rb) State.advance)

/-- StW Direct (R177): frozen while the semaphore bit is set. -/
def execStWD (rb : Reg) (disp : Nat) (s : State) : Out :=
  let cn := s.cpu.flagCN
  if disp ≤ 7 ∧ s.sem cn disp = true then .next (s.freeze cn disp false)
  else .next (s.storeFrom (s.directWA disp) (s.rd rb) (fun t => t.endDirect cn disp true))

/-- StW, register indirect (R178). -/
def execStWR (rb base : Reg) (s : State) : Out :=
  .next (s.storeFrom (wordAddress (s.rd base) 0) (s.rd rb) State.advance)

/-- StWE (R179): its data access. Its halfwords are fetched in steps of their own (20_memory.md R89). -/
def execStWE (rb base : Reg) (disp : Nat) (s : State) : Out :=
  if s.cpu.misplaced then .refused .extendedAfterBranch
  else .next (s.storeFrom (wordAddress (s.rd base) disp) (s.rd rb) State.advanceExtended)

/-! ### Mov -/

/-- Mov (R171). -/
def execMov (rb ra : Reg) (s : State) : Out := .next (s.wr rb (s.rd ra)).advance

/-- Tag of a read of S4 Test (10_state.md R54, L35). -/
def tagTest : Nat := 88

/-- Tag of S7, S8 or S9 read, or S8 written, while T = 1 (U10, L34). -/
def tagTrapRegister : Nat := 89

/-- Tag of S14 read, or S14.ADDR after a write, while EIE = 1 (U10, L34). -/
def tagInterruptRegister : Nat := 90

/-- S12 as a Mov writes it: the overflow bits 14 and 6 become 0 (R169). -/
def configWritten (v : Word) : BitVec 16 := v.extractLsb' 0 16 &&& 0xBFBF

/-- S14 as a Mov writes it: EIE set or cleared, EIP cleared only (R169); with EIE = 1 the address field
becomes free (U10). -/
def State.interruptWritten (s : State) (v : Word) : Word :=
  let kept := if s.s14.getLsbD 31 then
      withInterruptAddress s.s14 ((Config.freeWord s.tick tagInterruptRegister).extractLsb' 0 30)
    else s.s14
  setBit (setBit kept 30 (s.s14.getLsbD 30 && v.getLsbD 30)) 31 (v.getLsbD 31)

/-- Remainder or Product written by a Mov: MDfull is set (R169, D25). -/
def PU.writeMd (u : PU) (d : Dest) (v : Word) : PU := (u.writeDest d v).withBit bitF true

/-- The state with a special register written (R169); none where the write is not described. -/
def State.writeSpecial (s : State) (sp : SReg) (v : Word) : Option State :=
  match sp with
  | .mask => some (s.modCpu (fun u => { u with mask := .raw (v.extractLsb' 0 15) }))
  | .remainder => some (s.modCpu (fun u => u.writeMd .remainder v))
  | .product => some (s.modCpu (fun u => u.writeMd .product v))
  | .puNumber | .test | .reserved5 | .globalStatus => none
  | .window =>
    let t := s.setSems s.cpu.flagCN (s6Sems v)
    some (if s.cpu.flagCN then { t with window1 := s6Window v } else t)
  | .statusSave => some (s.modCpu (fun u => { u with statusSave := v }))
  | .trapArgument =>
    some (s.modCpu (fun u =>
      { u with trapArg := if u.flagT then Config.freeWord s.tick tagTrapRegister else v }))
  | .pcSaveQueue => some (s.modCpu (fun u => { u with qHead := u.qTail, qTail := addressOf v }))
  | .eventCounter1 => some { s with s10 := v }
  | .eventCounter2 => some { s with s11 := v }
  | .eventConfig => some { s with s12 := configWritten v }
  | .interruptArgument => some { s with s14 := s.interruptWritten v }
  | .pageTableOrigin => some { s with s15 := v }

/-- Mov to Special cannot name the register: 3, 5 and 13 (R169). -/
def notDestination (sp : SReg) : Bool := sp == .puNumber || sp == .reserved5 || sp == .globalStatus

/-- Mov to Special (R169). A write of S4 is refused (10_state.md R54). -/
def execMovTS (rb : Reg) (sp : SReg) (s : State) : Out :=
  if notDestination sp || s.sregDenied sp then .next s.raiseIllegal
  else
    match s.writeSpecial sp (s.rd rb) with
    | none => .refused .testRegisterWrite
    | some t => .next t.advance

/-- A register that is valid only while T = 0, as a Mov reads it (R395). -/
def State.trapRegister (s : State) (v : Word) : Word :=
  if s.cpu.flagT then Config.freeWord s.tick tagTrapRegister else v

/-- What Mov from Special reads (R170). -/
def State.readSpecial (s : State) (sp : SReg) : Word :=
  match sp with
  | .mask => (0#17 ++ s.cpu.mask.bits : BitVec (17 + 15))
  | .remainder => s.cpu.readDest s.tick .remainder
  | .product => s.cpu.readDest s.tick .product
  | .puNumber => BitVec.ofNat 32 s.turn.number
  | .test => Config.freeWord s.tick tagTest
  | .reserved5 => 0
  | .window => s6Pack (s.windowBits s.cpu.flagCN) (s.sems s.cpu.flagCN)
  | .statusSave => s.trapRegister s.cpu.statusSave
  | .trapArgument => s.trapRegister s.cpu.trapArg
  | .pcSaveQueue => s.trapRegister (zeroExtend30 s.cpu.qHead)
  | .eventCounter1 => s.s10
  | .eventCounter2 => s.s11
  | .eventConfig => (0#16 ++ s.s12 : BitVec (16 + 16))
  | .globalStatus => s.globalStatus
  | .interruptArgument =>
    if s.s14.getLsbD 31 then Config.freeWord s.tick tagInterruptRegister else s.s14
  | .pageTableOrigin => s.s15

/-- Mov from Special (R170). -/
def execMovFS (rb : Reg) (sp : SReg) (s : State) : Out :=
  if sp == .reserved5 || s.sregDenied sp then .next s.raiseIllegal
  else .next (s.wr rb (s.readSpecial sp)).advance

end Sys2Proof.Machine
end

