-- ==== Sys2Proof/Machine/Cycle.lean ====
section
/-! DEFINITION. What surrounds an instruction in a step (10_state.md R34): whose step it is, the
per-cycle copy (R57, R59), interrupts, runs of transfers, halted, skipped and frozen slots, fetch and
decode, and the end. -/

namespace Sys2Proof.Machine

/-- An external cause arrives (60_exceptions.md R348). -/
def State.arrive (s : State) (e : ExtEvent) : State :=
  match e with
  | .reset => { s with pend := { s.pend with reset := true } }
  | .machineCheck => { s with pend := { s.pend with machineCheck := true } }
  | .restart => { s with pend := { s.pend with restart := true } }
  | .powerFail => { s with pend := { s.pend with powerFail := true } }
  | .interChip a => { s with pend := { s.pend with interChip := some a } }
  | .external => { s with s14 := setBit s.s14 30 true }

/-- What the outside world decides of this step, if it decides anything (L13, L14). -/
def State.input (s : State) : State :=
  match s.inputs with
  | [] => s
  | x :: rest =>
    let s1 : State := { s with inputs := rest, turn := x.pu }
    match x.event with
    | none => s1
    | some e => s1.arrive e

/-- The per-cycle copy into Status_Save and the PC_Save Queue, while T = 1 (R352, D37). -/
def PU.track (u : PU) : PU :=
  if u.flagT then { u with statusSave := u.sscr, qHead := u.pc, qTail := u.npc } else u

/-- A PU whose semaphore bit has changed is frozen no more (10_state.md R71). -/
def State.thaw (s : State) : State :=
  if s.frozen s.turn then s else s.modCpu (fun u => { u with waitSem := none })

/-- The state at the start of a step. -/
def State.beginStep (s : State) : State := { s.input.thaw.modCpu PU.track with event := .idle }

/-- A PU blocked in Wait whose condition holds: every other PU of its nonempty mask is halted
(45_control.md R332). -/
def State.waitEnds (s : State) (p : PuId) : Bool :=
  match (s.pu p).waitMask with
  | none => false
  | some m =>
    (s.pu p).flagW && m != 0 && (targets m).all (fun q => q == p || (s.pu q).flagW)

/-- A Wait ends: W cleared, and the PU goes on after it, the Wait finished (45_control.md R320, R332). -/
def PU.leaveWait (u : PU) : PU :=
  { (u.withBit bitW false).sequential with waitMask := none, waitEnded := true }

/-- Every PU whose Wait has its condition met goes on, all together (R332, L37). -/
def State.releaseWaits (s : State) : State :=
  { s with
    pu0 := if s.waitEnds .pu0 then s.pu0.leaveWait else s.pu0
    pu1 := if s.waitEnds .pu1 then s.pu1.leaveWait else s.pu1
    pu2 := if s.waitEnds .pu2 then s.pu2.leaveWait else s.pu2
    pu3 := if s.waitEnds .pu3 then s.pu3.leaveWait else s.pu3 }

/-- The slot after a Skcc whose condition was met (R34 step 2). -/
def State.skipSlot (s : State) : State :=
  { s.modCpu (fun u => (u.withBit bitS false).sequential) with event := .skipped }

/-- The halfword at pc is the first of a two-halfword form. -/
def State.atExtended (s : State) : Bool :=
  match s.fetchHalf s.cpu.pc with
  | .error _ => false
  | .ok (w, _) =>
    match decode s.params.opcodes [w] with
    | .error .truncated => true
    | .error (.illegalOpcode _) | .ok _ => false

/-- The next transfer of a LdM or StM that has moved some of its words. -/
def State.moving (s : State) : Bool :=
  match s.cpu.run with
  | some (.move _) => true
  | some (.second _) | some (.access _) | none => false

/-- What takes the place of an instruction in this step: an interrupt, the next transfer of a run, a
halted PU, a skipped slot, a frozen PU (R34 steps 1 and 2, R71). LdWE or StWE in the skipped slot is
undefined (70_reset_and_hazards.md R393, U3). -/
def State.preempt (s : State) : Option Out :=
  match s.accepted with
  | some n => some (.next (s.takeInterrupt n))
  | none =>
    if s.moving then some (.next s.continueRun)
    else if s.cpu.flagW then some (.next { s.releaseWaits with event := .waiting })
    else if s.cpu.flagS then
      some (if s.atExtended then .refused .extendedAfterBranch else .next s.skipSlot)
    else if s.frozen s.turn then some (.next s.stay)
    else none

/-- A halfword that matches no form (30_encoding.md R137); after the first RtI of a pair it breaks the pair
(70_reset_and_hazards.md R394, U4). -/
def State.illegalHalf (s : State) : Out :=
  if s.cpu.rti1 then .refused .rtiPairBroken else .next s.raiseIllegal

/-- What is left of the PU's instruction. -/
def State.withRest (s : State) (r : Option Rest) : State := s.modCpu (fun u => { u with run := r })

/-- The first halfword of a LdWE or StWE is fetched; the second is fetched in the PU's next step (20_memory.md
R89). After the first RtI of a pair it breaks the pair (70_reset_and_hazards.md R394, U4), in a shadow or
after a branch or skip it is undefined (R393, U3). -/
def State.holdFirst (s : State) (w : Half) : Out :=
  if s.cpu.rti1 then .refused .rtiPairBroken
  else if s.cpu.misplaced then .refused .extendedAfterBranch
  else .next (s.withRest (some (.second w))).stay

/-- Fetch and decode at pc (R34 steps 3 and 4): the instruction and the state after its fetch, or what a
fetch fault, an illegal halfword or the first halfword of two leads to. -/
def State.fetchFirst (s : State) : Except Out (Instr × State) :=
  match s.fetchHalf s.cpu.pc with
  | .error f => .error (.next (s.fetchFault false f s.cpu.pc))
  | .ok (w, t) =>
    match decode s.params.opcodes [w] with
    | .ok (i, _) => .ok (i, t)
    | .error (.illegalOpcode _) => .error t.illegalHalf
    | .error .truncated => .error (t.holdFirst w)

/-- The fetch of a second halfword (20_memory.md R87); the data access is made in the PU's next step
(R89). -/
def State.fetchSecond (s : State) (w : Half) : Out :=
  let h := pcAdd s.cpu.pc 1
  match s.fetchHalf h with
  | .error f => .next (s.fetchFault true f h)
  | .ok (w2, t) =>
    match decode s.params.opcodes [w, w2] with
    | .ok (i, _) => .next (t.withRest (some (.access i))).stay
    | .error _ => t.illegalHalf

/-- The instruction that this step performs and the state after its fetches, or what stands in the place
of one. -/
def State.fetchDecode (s : State) : Except Out (Instr × State) :=
  match s.cpu.run with
  | some (.second w) => .error (s.fetchSecond w)
  | some (.access i) => .ok (i, s.withRest none)
  | some (.move _) | none => s.fetchFirst

/-- The first RtI of a pair is followed by something else (70_reset_and_hazards.md R394, U4). -/
def State.pairBroken (s : State) (i : Instr) : Bool := s.cpu.rti1 && i.form != .rtI

/-- The executing PU's step completed an instruction. -/
def StepEvent.completes : StepEvent → Bool
  | .finished | .finishedExtended | .finishedTrapping => true
  | .idle | .skipped | .trapped | .interrupted | .waiting => false

/-- PU `p` finished an instruction in this step: its own, or a Wait that ended. -/
def State.finishedOne (s : State) (p : PuId) : Bool :=
  (decide (p = s.turn) && s.event.completes) || (s.pu p).waitEnded

/-- A PU at the end of a step: its Mul and Div intervals shorten when it has finished an instruction
(R398), and its ended Wait has been counted. -/
def State.retired (s : State) (p : PuId) : PU :=
  let u := if s.finishedOne p then (s.pu p).retire p s.tick else s.pu p
  { u with waitEnded := false }

/-- The PUs at the end of a step. -/
def State.retire (s : State) : State :=
  { s with
    pu0 := s.retired .pu0, pu1 := s.retired .pu1, pu2 := s.retired .pu2, pu3 := s.retired .pu3 }

/-- The end of a step whose instruction began in user mode or not. -/
def State.finishStep (s : State) (user : Bool) : State :=
  let t := (s.count user).retire
  { t with tick := s.tick + 1, turn := s.turn.next }

/-- What a step makes of an instruction's outcome. -/
def ended (o : Out) (user : Bool) : Out :=
  match o with
  | .next t => .next (t.finishStep user)
  | .fault f => .fault f
  | .refused r => .refused r

/-- The address in memory of the halfword the PU fetches at `h`, where translation gives one. -/
def State.fetchAddress (s : State) (h : HAddr) : PAddr :=
  match s.translate (byteOfHalf h) .fetch s.cpu.flagU with
  | .ok (.here pa _) => pa
  | .ok .remote | .error _ => byteOfHalf h

/-- A halfword placed from outside the machine: memory, Main Memory and the instruction cache agree on
it, and no store to it is recorded (L48). -/
def State.placeHalf (s : State) (pa : PAddr) (w : Half) : State :=
  let i := setIndex pa
  let c := s.cacheSet i
  { s with
    mem := writeBytes s.mem pa.toNat (bytesOfHalf s.params.byteOrder w)
    icache := []
    stored := []
    dcache := match c.findWay (s.lineBase pa) with
      | none => s.dcache
      | some k => putSet s.dcache i (c.put k { c.way k with backing := none, unstored := 0 } c.order) }

/-- An instruction's words placed where the next step fetches; where there are two, the PU has fetched both,
so that the next step performs the instruction (L48). -/
def State.placeWords (s : State) (nbits w : Nat) : State :=
  let t := s.input
  let a := t.fetchAddress t.cpu.pc
  let b := t.fetchAddress (pcAdd t.cpu.pc 1)
  match tableHalves (w % 2 ^ nbits) with
  | [h1, h2] =>
    let placed := (s.placeHalf a h1).placeHalf b h2
    match decode s.params.opcodes [h1], decode s.params.opcodes [h1, h2] with
    | .error .truncated, .ok (i, _) =>
      placed.setPu t.turn { s.pu t.turn with run := some (.access i) }
    | _, _ => placed
  | _ => s

end Sys2Proof.Machine
end

