-- ==== Sys2Proof/Machine/Control.lean ====
section
/-! DEFINITION. Mode, trap, inter-PU and system control instructions (45_control.md R310 to R332). -/

namespace Sys2Proof.Machine

/-! ### Mode bits -/

/-- ClrM (R310). -/
def execClrM (bit : Fin 16) (s : State) : Out :=
  if s.cpu.modeBitDenied bit then .next s.raiseIllegal
  else .next (s.modCpu (fun u => u.withBit bit.val false)).advance

/-- SetM (R326). -/
def execSetM (bit : Fin 16) (s : State) : Out :=
  if s.cpu.modeBitDenied bit then .next s.raiseIllegal
  else .next (s.modCpu (fun u => u.withBit bit.val true)).advance

/-! ### Trap and return -/

/-- Trap (R330): the return continues after it. -/
def execTrap (num : Fin 16) (s : State) : Out :=
  .next { s.raiseAt (Fin.castLE (by decide) num) (s.cpu.npc, pcAdd s.cpu.npc 1) with
    event := .finishedTrapping }

/-- RtI (R322). With traps enabled, or a first RtI in a shadow or after Skcc, it is undefined (U4). A first RtI
after an untaken Bcc is refused like one in a shadow; DESIGN CHOICE (L28): R394's quoted sentence names Bcc,
whatever its outcome, while its "So:", R322 and U4 list only a shadow and Skcc. -/
def execRtI (s : State) : Out :=
  if s.cpu.flagU then .next s.raiseIllegal
  else if s.cpu.flagT then .refused .rtiWithTrapsEnabled
  else if s.cpu.rti1 then .next { s.modCpu PU.returnSecond with event := .finished }
  else if s.cpu.misplaced then .refused .rtiAfterBranch
  else .next { s.modCpu PU.returnFirst with event := .finished }

/-! ### Inter-PU instructions -/

/-- A change of every PU of a list. -/
def State.forPus (s : State) (ps : List PuId) (f : PU → PU) : State :=
  ps.foldl (fun t p => t.setPu p (f (t.pu p))) s

/-- Int (R311): blocked while a target has T = 0. -/
def execInt (puMask : BitVec 4) (s : State) : Out :=
  if s.cpu.flagU then .next s.raiseIllegal
  else if (targets puMask).any (fun p => !(s.pu p).flagT) then .next s.stay
  else .next (s.forPus (targets puMask) (fun u => { u with pendInter := true })).advance

/-- Res (R314): never blocks. -/
def execRes (puMask : BitVec 4) (s : State) : Out :=
  if s.cpu.flagU then .next s.raiseIllegal
  else .next (s.forPus (targets puMask) (fun u => { u with pendRestart := true })).advance

/-- Wait (R332): the PU is halted; then every PU whose Wait has its condition met goes on, which finishes
its Wait. -/
def execWait (puMask : BitVec 4) (s : State) : Out :=
  let t := s.modCpu (fun u => { u.withBit bitW true with waitMask := some puMask })
  .next t.releaseWaits.stay

/-- Rsm, Strt and Send block: a target other than the issuer runs, or a user issuer names a PU in system
mode (R320, R325, R328). -/
def State.issuerBlocked (s : State) (puMask : BitVec 4) : Bool :=
  (targets puMask).any (fun p =>
    (p != s.turn && !(s.pu p).flagW) || (s.cpu.flagU && !(s.pu p).flagU))

/-- What Rsm does to a target: A cleared, and a Wait it is blocked in ends (R320). -/
def PU.resume (u : PU) : PU :=
  let v := u.withBit bitA false
  if u.waitMask.isSome && u.flagW then v.leaveWait else v

/-- Rsm (R320). -/
def execRsm (puMask : BitVec 4) (s : State) : Out :=
  if s.issuerBlocked puMask then .next s.stay
  else .next (s.forPus (targets puMask) PU.resume).advance

/-- What Strt does to a target: A and W cleared, its next instruction the one at `t` (R328). -/
def PU.start (u : PU) (t : HAddr) : PU :=
  { (u.withBit bitA false).withBit bitW false with
    pc := t, npc := pcAdd t 1, waitSem := none, run := none, waitMask := none, afterBranch := false }

/-- Strt (R328). Naming its issuer is not described (U13). -/
def execStrt (rb : Reg) (puMask : BitVec 4) (s : State) : Out :=
  if puMask.getLsbD s.turn.number then .refused .strtNamesItself
  else if s.issuerBlocked puMask then .next s.stay
  else .next (s.forPus (targets puMask) (fun u => u.start (addressOf (s.rd rb)))).advance

/-- Send (R325): the register written is SendDest's (L22). -/
def execSend (rb : Reg) (puMask : BitVec 4) (s : State) : Out :=
  if s.issuerBlocked puMask then .next s.stay
  else .next (s.forPus (targets puMask)
    (fun u => u.writeDest (.gpr (Config.sendDest rb)) (s.rd rb))).advance

/-! ### Translation and cache tag access -/

/-- ITLB (R312): privileged. -/
def execItlb (s : State) : Out :=
  if s.cpu.flagU then .next s.raiseIllegal else .next ({ s with tlb := [] } : State).advance

/-- The tag RDTX returns for an index: set in bits 7:4, association in bits 1:0 (R313, L23). -/
def State.tagWord (s : State) (x : Word) : Word :=
  let e := (s.cacheSet (x.extractLsb' 4 4).toFin).way (x.extractLsb' 0 2).toFin
  Config.tagFormat e.base e.valid e.readOnly e.dirty e.user

/-- RDTX (R313): privileged. -/
def execRdtx (rb ra : Reg) (s : State) : Out :=
  if s.cpu.flagU then .next s.raiseIllegal else .next (s.wr rb (s.tagWord (s.rd ra))).advance

end Sys2Proof.Machine
end

