-- ==== Sys2Proof/Machine/ShiftField.lean ====
section
/-! DEFINITION. Logical, shift and bit-field instructions (43_shift_logical_field.md R260 to R276). -/

namespace Sys2Proof.Machine

/-- Msk, immediate position (R269). -/
def execMskI (pos : Fin 32) (len : Nat) (s : State) : Out :=
  .next (s.modCpu (fun u => { u with mask := .field pos (leftEnd pos len) })).advance

/-- Msk, register position (R270): the position is the register modulo 32. -/
def execMskR (ra : Reg) (len : Nat) (s : State) : Out :=
  let pos : Fin 32 := Fin.ofNat 32 (s.rd ra).toNat
  .next (s.modCpu (fun u => { u with mask := .field pos (leftEnd pos len) })).advance

/-- Tag of a field instruction's result under an illegal field definition (U1, L33). -/
def tagField : Nat := 91

/-- Tag of a field instruction's N and Z under an illegal field definition (U1, L33). -/
def tagFieldFlags : Nat := 95

/-- A result computed from the field's right and left end; free for an illegal definition (R260). -/
def State.fieldResult (s : State) (f : Fin 32 → Fin 32 → Word) : Word :=
  match s.cpu.mask.field? with
  | some (p, l) => f p l
  | none => Config.freeWord s.tick tagField

/-- A result stored in `r` with N and Z from it and V cleared. -/
def State.commitNZ (s : State) (r : Reg) (v : Word) : State :=
  ((s.wr r v).setNZ v.msb (v == 0)).advance

/-- A field instruction's result stored in `r` with N and Z from it and V cleared; for an illegal
definition result, N and Z are open, each by itself (R260, U1, L33). -/
def State.commitField (s : State) (r : Reg) (f : Fin 32 → Fin 32 → Word) : State :=
  match s.cpu.mask.field? with
  | some (p, l) => s.commitNZ r (f p l)
  | none =>
    ((s.wr r (Config.freeWord s.tick tagField)).setNZ (Config.freeBit s.tick tagFieldFlags)
      (Config.freeBit s.tick (tagFieldFlags + 1))).advance

/-- ClrF (R263). -/
def execClrF (ra : Reg) (s : State) : Out :=
  .next (s.wr ra (s.fieldResult (fun p l => s.rd ra &&& ~~~(fieldMask p l)))).advance

/-- SetF (R273). -/
def execSetF (ra : Reg) (s : State) : Out :=
  .next (s.wr ra (s.fieldResult (fun p l => s.rd ra ||| fieldMask p l))).advance

/-- Dep (R264). -/
def execDep (rb ra : Reg) (s : State) : Out :=
  .next (s.commitField ra (fun p l => (s.rd rb <<< p.val) &&& fieldMask p l))

/-- Ins (R268). -/
def execIns (rb ra : Reg) (s : State) : Out :=
  .next (s.commitField ra (fun p l =>
    (s.rd ra &&& ~~~(fieldMask p l)) ||| ((s.rd rb <<< p.val) &&& fieldMask p l)))

/-- ExtU (R267). -/
def execExtU (rb ra : Reg) (s : State) : Out :=
  .next (s.commitField rb (fun p l => (s.rd ra &&& fieldMask p l) >>> p.val))

/-- The low `w` bits of a word, sign extended (R266). -/
def signExtendFrom (w : Nat) (x : Word) : Word := (x.setWidth w).signExtend 32

/-- ExtS (R266). -/
def execExtS (rb ra : Reg) (s : State) : Out :=
  .next (s.commitField rb (fun p l =>
    signExtendFrom (l.val - p.val + 1) ((s.rd ra &&& fieldMask p l) >>> p.val)))

/-- DSh (R265). -/
def execDSh (rb ra : Reg) (s : State) : Out :=
  .next (s.commitField ra (fun p _ =>
    ((s.rd rb ++ s.rd ra : BitVec (32 + 32)) >>> p.val).setWidth 32))

/-- Tag of the result of a shift by the undefined amount (U7, L32). -/
def tagShift : Nat := 92

/-- Tag of N and Z of a shift by the undefined amount (U7, L32). -/
def tagShiftFlags : Nat := 97

/-- A shift by the undefined amount: result, N and Z are open, each by itself (U7, L32). -/
def State.shiftFree (s : State) (r : Reg) : State :=
  ((s.wr r (Config.freeWord s.tick tagShift)).setNZkeepV (Config.freeBit s.tick tagShiftFlags)
    (Config.freeBit s.tick (tagShiftFlags + 1))).advance

/-- ShL (R274); amount 0 stands for the undefined field value 0 (U7). -/
def execShL (rb : Reg) (amt : Fin 32) (s : State) : Out :=
  if amt = 0 then .next (s.shiftFree rb)
  else
    let r := s.rd rb <<< amt.val
    .next ((s.wr rb r).setNZkeepV r.msb (r == 0)).advance

/-- ShR (R275): N is cleared; amount 0 is the undefined one (U7). -/
def execShR (ra : Reg) (amt : Fin 32) (s : State) : Out :=
  if amt = 0 then .next (s.shiftFree ra)
  else
    let r := s.rd ra >>> amt.val
    .next ((s.wr ra r).setNZkeepV false (r == 0)).advance

/-- And (R261). -/
def execAnd (rb ra : Reg) (s : State) : Out := .next (s.commitNZ rb (s.rd rb &&& s.rd ra))

/-- AndC (R262). -/
def execAndC (rb ra : Reg) (s : State) : Out := .next (s.commitNZ rb (s.rd rb &&& ~~~(s.rd ra)))

/-- Or (R272): V is left alone (90_conflicts.md C25). -/
def execOr (rb ra : Reg) (s : State) : Out :=
  let r := s.rd rb ||| s.rd ra
  .next ((s.wr rb r).setNZkeepV r.msb (r == 0)).advance

/-- XOr (R276). -/
def execXOr (rb ra : Reg) (s : State) : Out := .next (s.commitNZ rb (s.rd rb ^^^ s.rd ra))

/-- Not (R271). -/
def execNot (rb ra : Reg) (s : State) : Out := .next (s.commitNZ rb (~~~(s.rd ra)))

end Sys2Proof.Machine
end

