-- ==== Sys2Proof/Machine/Dispatch.lean ====
section
/-! DEFINITION. One arm per instruction (30_encoding.md R140), each one call of its meaning. -/

namespace Sys2Proof.Machine

def exec (i : Instr) (s : State) : Host.Outcome State Fault Refusal :=
  match i with
  | .adCP rb ra => Sys2Proof.Machine.execAdCP rb ra s
  | .add rb ra => Sys2Proof.Machine.execAdd rb ra s
  | .addI rb imm => Sys2Proof.Machine.execAddI rb imm s
  | .addC rb ra => Sys2Proof.Machine.execAddC rb ra s
  | .addP rb ra => Sys2Proof.Machine.execAddP rb ra s
  | .adPC ra => Sys2Proof.Machine.execAdPC ra s
  | .and rb ra => Sys2Proof.Machine.execAnd rb ra s
  | .andC rb ra => Sys2Proof.Machine.execAndC rb ra s
  | .bcc cc disp => Sys2Proof.Machine.execBcc cc disp s
  | .cdc ra => Sys2Proof.Machine.execCdc ra s
  | .clrF ra => Sys2Proof.Machine.execClrF ra s
  | .clrM bit => Sys2Proof.Machine.execClrM bit s
  | .clz rb ra => Sys2Proof.Machine.execClz rb ra s
  | .cmp rb ra => Sys2Proof.Machine.execCmp rb ra s
  | .cmpI rb imm => Sys2Proof.Machine.execCmpI rb imm s
  | .cmpP rb ra => Sys2Proof.Machine.execCmpP rb ra s
  | .dep rb ra => Sys2Proof.Machine.execDep rb ra s
  | .div rb ra => Sys2Proof.Machine.execDiv rb ra s
  | .dSh rb ra => Sys2Proof.Machine.execDSh rb ra s
  | .extS rb ra => Sys2Proof.Machine.execExtS rb ra s
  | .extU rb ra => Sys2Proof.Machine.execExtU rb ra s
  | .fdc ra => Sys2Proof.Machine.execFdc ra s
  | .idc ra => Sys2Proof.Machine.execIdc ra s
  | .iic ra => Sys2Proof.Machine.execIic ra s
  | .iicA => Sys2Proof.Machine.execIicA s
  | .ins rb ra => Sys2Proof.Machine.execIns rb ra s
  | .int puMask => Sys2Proof.Machine.execInt puMask s
  | .itlb => Sys2Proof.Machine.execItlb s
  | .jmpR disp => Sys2Proof.Machine.execJmpR disp s
  | .jmpA ra => Sys2Proof.Machine.execJmpA ra s
  | .jmpL ra => Sys2Proof.Machine.execJmpL ra s
  | .lcc rb cc => Sys2Proof.Machine.execLcc rb cc s
  | .ld rb imm => Sys2Proof.Machine.execLd rb imm s
  | .ldB d p => Sys2Proof.Machine.execLdB d p s
  | .ldCP ra => Sys2Proof.Machine.execLdCP ra s
  | .ldM rb ra => Sys2Proof.Machine.execLdM rb ra s
  | .ldWB rb base disp => Sys2Proof.Machine.execLdWB rb base disp s
  | .ldWD rb disp => Sys2Proof.Machine.execLdWD rb disp s
  | .ldWR rb ra => Sys2Proof.Machine.execLdWR rb ra s
  | .ldWE rb ra disp => Sys2Proof.Machine.execLdWE rb ra disp s
  | .mov rb ra => Sys2Proof.Machine.execMov rb ra s
  | .movTS rb sp => Sys2Proof.Machine.execMovTS rb sp s
  | .movFS rb sp => Sys2Proof.Machine.execMovFS rb sp s
  | .mskI pos len => Sys2Proof.Machine.execMskI pos len s
  | .mskR ra len => Sys2Proof.Machine.execMskR ra len s
  | .mul rb ra => Sys2Proof.Machine.execMul rb ra s
  | .mulP rb ra => Sys2Proof.Machine.execMulP rb ra s
  | .neg rb ra => Sys2Proof.Machine.execNeg rb ra s
  | .not rb ra => Sys2Proof.Machine.execNot rb ra s
  | .or rb ra => Sys2Proof.Machine.execOr rb ra s
  | .pdc ra => Sys2Proof.Machine.execPdc ra s
  | .picA ra => Sys2Proof.Machine.execPicA ra s
  | .picR disp => Sys2Proof.Machine.execPicR disp s
  | .rdtx rb ra => Sys2Proof.Machine.execRdtx rb ra s
  | .res puMask => Sys2Proof.Machine.execRes puMask s
  | .rsm puMask => Sys2Proof.Machine.execRsm puMask s
  | .rtI => Sys2Proof.Machine.execRtI s
  | .sbCP rb ra => Sys2Proof.Machine.execSbCP rb ra s
  | .send rb puMask => Sys2Proof.Machine.execSend rb puMask s
  | .setF ra => Sys2Proof.Machine.execSetF ra s
  | .setM bit => Sys2Proof.Machine.execSetM bit s
  | .shL rb amt => Sys2Proof.Machine.execShL rb amt s
  | .shR ra amt => Sys2Proof.Machine.execShR ra amt s
  | .skcc cc => Sys2Proof.Machine.execSkcc cc s
  | .stB d p => Sys2Proof.Machine.execStB d p s
  | .stM rb ra => Sys2Proof.Machine.execStM rb ra s
  | .strt rb puMask => Sys2Proof.Machine.execStrt rb puMask s
  | .stWB rb base disp => Sys2Proof.Machine.execStWB rb base disp s
  | .stWD rb disp => Sys2Proof.Machine.execStWD rb disp s
  | .stWR rb base => Sys2Proof.Machine.execStWR rb base s
  | .stWE rb base disp => Sys2Proof.Machine.execStWE rb base disp s
  | .sub rb ra => Sys2Proof.Machine.execSub rb ra s
  | .subI rb imm => Sys2Proof.Machine.execSubI rb imm s
  | .subC rb ra => Sys2Proof.Machine.execSubC rb ra s
  | .subP rb ra => Sys2Proof.Machine.execSubP rb ra s
  | .trap num => Sys2Proof.Machine.execTrap num s
  | .tstF ra => Sys2Proof.Machine.execTstF ra s
  | .tstM bit => Sys2Proof.Machine.execTstM bit s
  | .udc ra => Sys2Proof.Machine.execUdc ra s
  | .vdc ra => Sys2Proof.Machine.execVdc ra s
  | .wait puMask => Sys2Proof.Machine.execWait puMask s
  | .xOr rb ra => Sys2Proof.Machine.execXOr rb ra s

end Sys2Proof.Machine
end

