-- ==== Sys2Proof/Machine/Step.lean ====
section
/-! DEFINITION. One step of the chip: a step of one PU (10_state.md R34). -/

namespace Sys2Proof.Machine

/-- One step. -/
def step (s : State) : Host.Outcome State Fault Refusal :=
  let s0 := s.beginStep
  match s0.preempt with
  | some o => ended o s0.cpu.flagU
  | none =>
    match s0.fetchDecode with
    | .error o => ended o s0.cpu.flagU
    | .ok (i, t) => if t.pairBroken i then .refused .rtiPairBroken else ended (exec i t) s0.cpu.flagU

/-- The state with an instruction's words where the next step fetches (L48). -/
def State.withFetchWord (s : State) (nbits w : Nat) : State := s.placeWords nbits w

end Sys2Proof.Machine
end

