-- ==== Sys2Proof/Safety.lean ====
section
/-! DEFINITION. What counts as a safe run, and the conditions every state of a run meets. -/

namespace Sys2Proof.Machine

/-- The machine takes `n` more steps without a stop. -/
def Runs : Nat → State → Prop
  | 0, _ => True
  | n + 1, s => ∃ t, step s = .next t ∧ Runs n t

/-- A line of set `i` is well formed: its address is a line's and selects the set, what it keeps of Main
Memory is a line long, and a dirty line, or one with words not stored since CDC, keeps some. -/
def CacheLine.Wf (s : State) (i : Fin 16) (e : CacheLine) : Prop :=
  (e.valid = true → s.lineBase e.base = e.base ∧ setIndex e.base = i) ∧
    (∀ b, e.backing = some b → b.length = s.lineBytes) ∧
    (e.dirty = true ∨ e.unstored ≠ 0 → e.backing.isSome = true)

/-- A set is well formed: its order names each entry once, its lines are well formed, and no line stands
in two entries (44_cache_control.md R300). -/
def CacheSet.Wf (s : State) (i : Fin 16) (c : CacheSet) : Prop :=
  c.order.Perm [0, 1, 2, 3] ∧ (∀ w : Fin 4, (c.way w).Wf s i) ∧
    ∀ v w : Fin 4, (c.way v).valid = true → (c.way w).valid = true →
      (c.way v).base = (c.way w).base → v = w

/-- No halfword has two records of stores. -/
def State.StoredWf (s : State) : Prop := (s.stored.map StoredHalf.addr).Nodup

/-- The data cache is well formed. -/
def State.CacheWf (s : State) : Prop := ∀ i : Fin 16, (s.cacheSet i).Wf s i

/-- Between the two RtIs of a pair a PU is in system mode with traps disabled (45_control.md R322). -/
def PU.ReturnWf (u : PU) : Prop := u.rti1 = true → u.flagT = false ∧ u.flagU = false

/-- A PU blocked in Wait is halted (45_control.md R332). -/
def PU.WaitWf (u : PU) : Prop := u.waitMask.isSome = true → u.flagW = true

/-- Every result-pending interval still lasts, and no register has two (70_reset_and_hazards.md R398). -/
def PU.InFlightWf (u : PU) : Prop :=
  (∀ e ∈ u.inflight, 1 ≤ e.left) ∧ (u.inflight.map InFlight.dest).Nodup

/-- Within a LdM, StM, LdWE or StWE the PU is not halted, and the register a LdM or StM moves next is one of
its run (40_load_store_move.md R165, R175). -/
def PU.RunWf (u : PU) : Prop :=
  (u.run.isSome = true → u.flagW = false) ∧
    ∀ x, u.run = some (.move x) → 1 ≤ x.next.val ∧ x.next ≤ x.count

/-- The conditions on a PU; between steps every ended Wait has been counted. -/
def PU.Wf (u : PU) : Prop :=
  u.ReturnWf ∧ u.WaitWf ∧ u.InFlightWf ∧ u.RunWf ∧ u.waitEnded = false

/-- The conditions every step keeps. -/
def State.Inv (s : State) : Prop := memoryWf s.mem ∧ s.CacheWf ∧ s.StoredWf ∧ ∀ p : PuId, (s.pu p).Wf

/-! ### Frames -/

/-- A piece of the state, as a frame names it. -/
inductive Part where
  | reg (r : Reg) | status (bit : Fin 32) | counters | mask | remainder | product | statusSave
  | trapArg | queue | returnMark | waitSem | run | waitMask | pendInter | pendRestart | intervals
  | waitEnded | otherPus
  | memory | dataCache | instCache | stored | tlb | test | window | semaphores | eventCounters | eventConfig
  | interruptArgument | pageTable | pending | model
deriving DecidableEq, Repr

/-- A piece of the state is the same in both states, the executing PU's where a PU has its own. Memory is
compared byte by byte; `model` is what no instruction changes (parameters, turn, inputs, tick). -/
def Part.Same (s t : State) : Part → Prop
  | .reg r => t.cpu.reg r = s.cpu.reg r
  | .status b => t.cpu.sscr.getLsbD b.val = s.cpu.sscr.getLsbD b.val
  | .counters => t.cpu.pc = s.cpu.pc ∧ t.cpu.npc = s.cpu.npc
  | .mask => t.cpu.mask = s.cpu.mask
  | .remainder => t.cpu.remainder = s.cpu.remainder
  | .product => t.cpu.product = s.cpu.product
  | .statusSave => t.cpu.statusSave = s.cpu.statusSave
  | .trapArg => t.cpu.trapArg = s.cpu.trapArg
  | .queue => t.cpu.qHead = s.cpu.qHead ∧ t.cpu.qTail = s.cpu.qTail
  | .returnMark => t.cpu.rti1 = s.cpu.rti1
  | .waitSem => t.cpu.waitSem = s.cpu.waitSem
  | .run => t.cpu.run = s.cpu.run
  | .waitMask => t.cpu.waitMask = s.cpu.waitMask
  | .pendInter => t.cpu.pendInter = s.cpu.pendInter
  | .pendRestart => t.cpu.pendRestart = s.cpu.pendRestart
  | .intervals => ∀ d, t.cpu.busy d = s.cpu.busy d
  | .waitEnded => t.cpu.waitEnded = s.cpu.waitEnded
  | .otherPus => ∀ p, p ≠ s.turn → t.pu p = s.pu p
  | .memory => ∀ a, readByte t.mem a = readByte s.mem a
  | .dataCache => t.dcache = s.dcache
  | .instCache => t.icache = s.icache
  | .stored => t.stored = s.stored
  | .tlb => t.tlb = s.tlb
  | .test => t.s4 = s.s4
  | .window => t.window1 = s.window1
  | .semaphores => t.sem0 = s.sem0 ∧ t.sem1 = s.sem1
  | .eventCounters => t.s10 = s.s10 ∧ t.s11 = s.s11
  | .eventConfig => t.s12 = s.s12
  | .interruptArgument => t.s14 = s.s14
  | .pageTable => t.s15 = s.s15
  | .pending => t.pend = s.pend
  | .model => t.params = s.params ∧ t.turn = s.turn ∧ t.inputs = s.inputs ∧ t.tick = s.tick

/-- Nothing but the listed pieces differs between the states. -/
def Unchanged (s t : State) (changed : List Part) : Prop := ∀ p : Part, p ∉ changed → p.Same s t

/-- The condition codes of SSCR (10_state.md R40). -/
def flagParts : List Part :=
  [.status 16, .status 17, .status 18, .status 19, .status 20, .status 21, .status 22]

/-- N and Z. -/
def nzParts : List Part := [.status 16, .status 17]

/-- N, Z and V. -/
def nzvParts : List Part := [.status 16, .status 17, .status 18]

/-- The carries. -/
def carryParts : List Part := [.status 19, .status 20, .status 21, .status 22]

/-- What every completed instruction may change: the program counters, and the end of a freeze or of what is
left of the instruction. -/
def stepParts : List Part := [.counters, .waitSem, .run]

/-- What taking an exception may change on the PU that takes it (60_exceptions.md R352): SSCR, the saved
context, the program counters and the hidden marks. -/
def entryParts : List Part :=
  (List.finRange 32).map Part.status ++
    [.counters, .statusSave, .queue, .returnMark, .waitSem, .run, .waitMask]

/-- The executing PU's program counters are the two given; it waits for no semaphore and has nothing
left of an instruction; the slot it stands at follows a Bcc, Jmp, JmpL or Skcc or not (70_reset_and_hazards.md R393,
R394); and what the step did. -/
def State.At (t : State) (pc npc : HAddr) (afterBranch : Bool) (e : StepEvent) : Prop :=
  t.cpu.pc = pc ∧ t.cpu.npc = npc ∧ t.cpu.waitSem = none ∧ t.cpu.run = none ∧
    t.cpu.afterBranch = afterBranch ∧ t.event = e

/-- The sequential line of R31, after an instruction that is no branch. -/
def Advances (s t : State) : Prop := t.At s.cpu.npc (pcAdd s.cpu.npc 1) false .finished

/-- The sequential line of R31, after an untaken Bcc or a Skcc (70_reset_and_hazards.md R393, R394). -/
def AdvancesMarked (s t : State) : Prop := t.At s.cpu.npc (pcAdd s.cpu.npc 1) true .finished

/-- The extended line of R31. -/
def AdvancesExtended (s t : State) : Prop :=
  t.At (pcAdd s.cpu.npc 1) (pcAdd s.cpu.npc 2) false .finishedExtended

/-- The taken-transfer line of R31, after a Bcc, Jmp or JmpL. -/
def Branches (s t : State) (target : HAddr) : Prop := t.At s.cpu.npc target true .finished

/-- The taken-transfer line of R31, as RtI makes it (45_control.md R322). That the slot at the target is not
marked as following a branch is the model's choice (L28). -/
def Returns (s t : State) (target : HAddr) : Prop := t.At s.cpu.npc target false .finished

/-- A run after `n` more of its transfers, with nothing between them. -/
def State.transfers : Nat → State → State
  | 0, s => s
  | n + 1, s => s.continueRun.transfers n

/-- PU `p` stands at the entry of exception `n`, in system mode with traps off, byte mode and cluster 0,
running, with nothing pending of its interrupted instruction (60_exceptions.md R352). That the mark of a
branch before that instruction is gone is the model's choice (L28). -/
def State.AtEntry (t : State) (p : PuId) (n : Nat) : Prop :=
  (t.pu p).pc = BitVec.ofNat 30 (8 * n) ∧ (t.pu p).npc = BitVec.ofNat 30 (8 * n + 1) ∧
    (t.pu p).sscr.extractLsb' 0 16 = 0 ∧ (t.pu p).flagW = false ∧ (t.pu p).flagS = false ∧
    (t.pu p).rti1 = false ∧ (t.pu p).waitSem = none ∧ (t.pu p).run = none ∧ (t.pu p).waitMask = none ∧
    (t.pu p).afterBranch = false

/-- PU `p` holds a saved context: status and both program counters (60_exceptions.md R353). -/
def State.Saved (t : State) (p : PuId) (status : Word) (head tail : HAddr) : Prop :=
  (t.pu p).statusSave = status ∧ (t.pu p).qHead = head ∧ (t.pu p).qTail = tail

/-- The executing PU takes a synchronous trap `n` with its own program counters saved; with traps
disabled, Machine Check (60_exceptions.md R344, R353). -/
def TakesTrap (s t : State) (n : Nat) : Prop :=
  if s.cpu.flagT then
    t.AtEntry s.turn n ∧ t.Saved s.turn s.cpu.sscr s.cpu.pc s.cpu.npc
  else t.AtEntry s.turn 0x1E

/-- An instruction raises trap `n` and changes nothing but what the entry changes. -/
def RaisesOnly (i : Instr) (s : State) (n : Nat) : Prop :=
  ∃ t, exec i s = .next t ∧ TakesTrap s t n ∧ Unchanged s t entryParts

/-! ### Results -/

/-- The exact value lies outside the signed 32-bit range (10_state.md R44). -/
def SignedOverflow (x : Int) : Prop := x < -2147483648 ∨ 2147483647 < x

/-- N, Z, V, C0 as given, and C1 to C3 clear (10_state.md R44). -/
def PU.FullWordFlags (u : PU) (n z v c : Prop) : Prop :=
  (u.flagN = true ↔ n) ∧ (u.flagZ = true ↔ z) ∧ (u.flagV = true ↔ v) ∧ (u.carry 0 = true ↔ c) ∧
    u.carry 1 = false ∧ u.carry 2 = false ∧ u.carry 3 = false

/-- A full-word sum or difference: `exact` the signed value without bound, `carry` the carry out
(41_arithmetic.md R200). Where V and VE do not both hold, the result is stored and the flags written;
where they do, the overflow trap is taken, `rb` then old or new. -/
def FullWordResult (i : Instr) (s : State) (rb : Reg) (exact : Int) (carry : Prop) : Prop :=
  (¬(SignedOverflow exact ∧ s.cpu.flagVE = true) →
    ∃ t, exec i s = .next t ∧ t.cpu.reg rb = BitVec.ofInt 32 exact ∧
      t.cpu.FullWordFlags (exact < 0) (BitVec.ofInt 32 exact = 0#32) (SignedOverflow exact) carry ∧
      Advances s t ∧ Unchanged s t (stepParts ++ flagParts ++ [.reg rb])) ∧
  (SignedOverflow exact ∧ s.cpu.flagVE = true →
    ∃ t, exec i s = .next t ∧
      t.AtEntry s.turn (if s.cpu.flagT then 0x17 else 0x1E) ∧
      (s.cpu.flagT = true → t.cpu.qHead = s.cpu.pc ∧ t.cpu.qTail = s.cpu.npc ∧
        t.cpu.statusSave.extractLsb' 0 16 = s.cpu.sscr.extractLsb' 0 16) ∧
      (t.cpu.reg rb = s.cpu.reg rb ∨ t.cpu.reg rb = BitVec.ofInt 32 exact) ∧
      Unchanged s t (entryParts ++ [.reg rb]))

/-- The width of a lane (41_arithmetic.md R216). -/
def laneWidth (h : Bool) : Nat := if h then 16 else 8

/-- The lanes of a word: 0 to 3 in byte mode, 0 and 2 in halfword mode (10_state.md R47). -/
def lanes (h : Bool) : List Nat := if h then [0, 2] else [0, 1, 2, 3]

/-- Lane k of a word as a number: it ends at bit `32 - 8 k` (10_state.md R47). -/
def laneOf (h : Bool) (w : Word) (k : Nat) : Nat :=
  (w.toNat / 2 ^ (32 - 8 * k - laneWidth h)) % 2 ^ laneWidth h

/-- The flags of lane results `u k`, exact: a carry bit is set where its lane reaches its width, and
clear where the mode has no such lane (41_arithmetic.md R216). -/
def PU.LaneFlags (v : PU) (h : Bool) (u : Nat → Nat) : Prop :=
  (∀ k < 4, v.carry k = true ↔ k ∈ lanes h ∧ 2 ^ laneWidth h ≤ u k) ∧
  (v.flagN = true ↔ ∃ k ∈ lanes h, 2 ^ (laneWidth h - 1) ≤ u k % 2 ^ laneWidth h) ∧
  (v.flagZ = true ↔ ∃ k ∈ lanes h, u k % 2 ^ laneWidth h = 0) ∧ v.flagV = false

/-- A partial-word result in `rb` with lane values `u k`, exact (41_arithmetic.md R216). -/
def LaneResult (i : Instr) (s : State) (rb : Reg) (u : Nat → Nat) : Prop :=
  ∃ t, exec i s = .next t ∧
    (∀ k ∈ lanes s.cpu.flagH, laneOf s.cpu.flagH (t.cpu.reg rb) k = u k % 2 ^ laneWidth s.cpu.flagH) ∧
    t.cpu.LaneFlags s.cpu.flagH u ∧ Advances s t ∧
    Unchanged s t (stepParts ++ flagParts ++ [.reg rb])

/-- N and Z are those of a word. -/
def PU.SignOf (u : PU) (r : Word) : Prop :=
  (u.flagN = true ↔ r.toInt < 0) ∧ (u.flagZ = true ↔ r = 0)

/-- A PU's Wait ends: it goes on after the Wait, which is to be counted, with W clear, and keeps everything
else but SSCR's other bits, of which this says nothing (45_control.md R320, R332). -/
def WaitEnds (u v : PU) : Prop :=
  v.flagW = false ∧ v.waitMask = none ∧ v.pc = u.npc ∧ v.npc = pcAdd u.npc 1 ∧ v.waitEnded = true ∧
    v.waitSem = none ∧ v.run = none ∧ v.afterBranch = false ∧
    ({ v with
      sscr := u.sscr, waitMask := u.waitMask, pc := u.pc, npc := u.npc, waitEnded := u.waitEnded
      waitSem := u.waitSem, run := u.run, afterBranch := u.afterBranch } : PU) = u

/-- A PU is blocked in a Wait of a nonempty mask all of whose PUs but itself are halted (45_control.md
R332). -/
def State.WaitMet (s : State) (q : PuId) : Prop :=
  (s.pu q).flagW = true ∧ ∃ m : BitVec 4, (s.pu q).waitMask = some m ∧ m ≠ 0 ∧
    ∀ p : PuId, m.getLsbD p.number = true → p = q ∨ (s.pu p).flagW = true

/-- A register receives a value and nothing else happens but the step. -/
def Writes (i : Instr) (s : State) (r : Reg) (v : Word) (also : List Part) (post : State → Prop) : Prop :=
  ∃ t, exec i s = .next t ∧ t.cpu.reg r = v ∧ post t ∧ Advances s t ∧
    Unchanged s t (stepParts ++ [.reg r] ++ also)

/-- A result in `r` whose N and Z are written and V cleared, the carries kept (10_state.md R49). -/
def WritesNZ (i : Instr) (s : State) (r : Reg) (v : Word) : Prop :=
  Writes i s r v nzvParts (fun t => t.cpu.SignOf v ∧ t.cpu.flagV = false)

/-- An instruction that changes nothing but what is listed, and what then holds. -/
def Completes (i : Instr) (s : State) (also : List Part) (post : State → Prop) : Prop :=
  ∃ t, exec i s = .next t ∧ post t ∧ Advances s t ∧ Unchanged s t (stepParts ++ also)

/-! ### Memory accesses -/

/-- The page of an address allows the access and lies in this node, and so does the tag of its line in the
data cache (20_memory.md R96, R101). -/
def State.Allows (s : State) (va : VAddr) (kind : AccessKind) (d : PageDesc) : Prop :=
  s.pageOf va = some d ∧ pageDenies d kind s.cpu.flagU = false ∧ d.message = false ∧
    s.tagDenies (pageAddress d va) kind s.cpu.flagU = false

/-- What data accesses see of memory after an access of `pa` has replaced a line (44_cache_control.md
R300): the discarded stores of a line that VDC or CDC marked unmodified are gone, and so are the words of a
line made by CDC that nothing stored (R290). -/
def State.memoryAfter (s : State) (pa : PAddr) : Memory :=
  match s.victim pa with
  | none => s.mem
  | some e => evictLine s.mem e

/-- Byte `a` is one of an entry that Main Memory does not get when the line is replaced: any of a clean line
with other contents there (20_memory.md R102), and one of a word that nothing has stored since CDC made the
line (44_cache_control.md R290). -/
def CacheLine.Loses (e : CacheLine) (a : Nat) : Prop :=
  ∃ bytes, e.discards = true ∧ e.backing = some bytes ∧
    e.base.toNat ≤ a ∧ a < e.base.toNat + bytes.length ∧
    (e.dirty = true → e.unstored.getLsbD ((a - e.base.toNat) / 4) = true)

/-- Byte `a` lies in a line that an access of `pa` replaces, and Main Memory does not get it. -/
def State.Discards (s : State) (pa : PAddr) (a : Nat) : Prop :=
  ∃ e, s.victim pa = some e ∧ e.Loses a

/-- What Main Memory holds of a modified entry's line after it is written back: what loads see of it, but of
the words that nothing has stored since CDC made the line what it held (44_cache_control.md R290, R300). -/
def State.writtenLine (s : State) (e : CacheLine) : List Byte :=
  (List.range s.lineBytes).map (fun k =>
    if e.unstored.getLsbD (k / 4) then (s.mainLine e.base).getD k 0 else readByte s.mem (e.base.toNat + k))

/-- What a load or a store may change beside its own effect: the TLB and the data cache. -/
def accessParts : List Part := [.tlb, .dataCache]

/-- What a load or a store at `pa` does to the data cache (20_memory.md R101, 44_cache_control.md R290, R300):
the line keeps the entry it had, or takes the least recently used one with R and U from its page; it is
modified after a store, and otherwise exactly if it was; a store marks its own word stored (a StB too, L42), and a
line just brought in has no word unstored; its entry is the most recently used; the other entries keep everything, and Main
Memory receives a modified line that is replaced, but for words not stored. -/
def CacheAfter (s t : State) (pa : PAddr) (d : PageDesc) (store : Bool) : Prop :=
  let i := setIndex pa
  let c := s.cacheSet i
  ∃ w : Fin 4, (t.cacheSet i).findWay (s.lineBase pa) = some w ∧
    (∀ v, c.findWay (s.lineBase pa) = some v → w = v ∧
      ((t.cacheSet i).way w).dirty = (store || (c.way w).dirty) ∧
      ((t.cacheSet i).way w).readOnly = (c.way w).readOnly ∧
      ((t.cacheSet i).way w).user = (c.way w).user ∧
      ∀ k < 16, ((t.cacheSet i).way w).unstored.getLsbD k = ((c.way w).unstored.getLsbD k &&
        !(store && decide (k = (pa.toNat - (s.lineBase pa).toNat) / 4)))) ∧
    (c.findWay (s.lineBase pa) = none → w = c.lru ∧
      ((t.cacheSet i).way w).unstored = 0 ∧ ((t.cacheSet i).way w).dirty = store ∧
      ((t.cacheSet i).way w).readOnly = d.readOnly ∧ ((t.cacheSet i).way w).user = d.user) ∧
    (t.cacheSet i).order = c.order.erase w ++ [w] ∧
    (∀ v, v ≠ w → (t.cacheSet i).way v = c.way v) ∧ (∀ j, j ≠ i → t.cacheSet j = s.cacheSet j) ∧
    (s.CacheWf → ∀ e, s.victim pa = some e → e.valid = true → e.dirty = true →
      t.mainLine e.base = s.writtenLine e)

/-- Every entry of the data cache but entry `w` of set `i` keeps everything. -/
def OtherEntriesKept (s t : State) (i : Fin 16) (w : Fin 4) : Prop :=
  (∀ v, v ≠ w → (t.cacheSet i).way v = (s.cacheSet i).way v) ∧ ∀ j, j ≠ i → t.cacheSet j = s.cacheSet j

/-- Main Memory keeps what it holds of every line but that of `pa`, save that a modified line which is
replaced is written to it, but for words not stored (44_cache_control.md R290, R300). -/
def MainAfter (s t : State) (pa : PAddr) (replaced : Option CacheLine) : Prop :=
  ∀ b : PAddr, s.lineBase b = b → b ≠ s.lineBase pa →
    let written := fun e => replaced = some e ∧ e.valid = true ∧ e.dirty = true ∧ e.base = b
    (∀ e, written e → t.mainLine b = s.writtenLine e) ∧
    ((¬∃ e, written e) → t.mainLine b = s.mainLine b)

/-- A store has changed the listed halfwords (20_memory.md R100): each is recorded, not written back, and a
fetch of it may return the new value or what it might have returned before; the other records stay. -/
def RecordsStores (s t : State) (halves : List PAddr) : Prop :=
  (∀ h ∈ halves, (∃ r, t.storedHalf h = some r ∧ r.written = false) ∧
    (s.CacheWf → ∀ x, x ∈ t.fetchChoices h ↔ x = t.halfIn h ∨ x ∈ s.fetchChoices h)) ∧
  ∀ h, h ∉ halves → t.storedHalf h = s.storedHalf h

/-- `t` is `s` after a word load from `wa` in page `d`: the value, the pieces that may change, and every
byte of memory outside a line the access discards. -/
def Loads (s t : State) (rb : Reg) (wa : WAddr) (d : PageDesc) (also : List Part) : Prop :=
  t.cpu.reg rb = readWord s.params.byteOrder (s.memoryAfter (pageAddress d (byteOfWord wa)))
    (pageAddress d (byteOfWord wa)).toNat ∧
  Unchanged s t (stepParts ++ accessParts ++ [.memory, .reg rb] ++ also) ∧
  CacheAfter s t (pageAddress d (byteOfWord wa)) d false ∧
  ∀ a, ¬s.Discards (pageAddress d (byteOfWord wa)) a → readByte t.mem a = readByte s.mem a

/-- `t` is `s` after a word store of `v` at `wa` in page `d`: the word, the pieces that may change, and
every byte of memory outside the word and outside a line the access discards; and what a fetch of the word's
halfwords may now return. -/
def Stores (s t : State) (wa : WAddr) (v : Word) (d : PageDesc) (also : List Part) : Prop :=
  readWord s.params.byteOrder t.mem (pageAddress d (byteOfWord wa)).toNat = v ∧
  Unchanged s t (stepParts ++ accessParts ++ [.memory, .stored] ++ also) ∧
  CacheAfter s t (pageAddress d (byteOfWord wa)) d true ∧
  RecordsStores s t [pageAddress d (byteOfWord wa), pageAddress d (byteOfWord wa) + 2] ∧
  ∀ a, ¬((pageAddress d (byteOfWord wa)).toNat ≤ a ∧ a < (pageAddress d (byteOfWord wa)).toNat + 4) →
    ¬s.Discards (pageAddress d (byteOfWord wa)) a → readByte t.mem a = readByte s.mem a

/-- A data access raises trap `n` with an address in S8, and changes nothing but what the entry does and
the pieces listed (60_exceptions.md R357). -/
def FaultsWith (i : Instr) (s : State) (n : Nat) (ptr : Word) (also : List Part) : Prop :=
  ∃ t, exec i s = .next t ∧ TakesTrap s t n ∧ (s.cpu.flagT = true → t.cpu.trapArg = ptr) ∧
    Unchanged s t (entryParts ++ [.trapArg] ++ also)

/-- The data fault of an address: its page is absent, or its page's protection, or the U bit of its line's
tag in the data cache, denies the access, and the trap number (20_memory.md R96, R101). -/
def State.DataFaultIs (s : State) (va : VAddr) (kind : AccessKind) (n : Nat) : Prop :=
  (s.pageOf va = none ∧ n = 0x13) ∨
    (∃ d, s.pageOf va = some d ∧ n = 0x15 ∧
      ((s.cpu.flagU = true ∧ d.user = false) ∨ d.executeOnly = true ∨
        (kind = .store ∧ d.readOnly = true) ∨
        (d.message = false ∧ s.cpu.flagU = true ∧
          ∃ e, s.lineAt (pageAddress d va) = some e ∧ e.user = false)))

/-- The instruction makes one word access, of kind `k` at `wa` with register `rb`, in any addressing form:
LdWE and StWE where they may stand, direct ones below 8 with their semaphore as they need it
(40_load_store_move.md R166 to R168, R172, R176 to R179). -/
def WordAccess (i : Instr) (s : State) (k : AccessKind) (rb : Reg) (wa : WAddr) : Prop :=
  (∃ base disp, wa = wordAddress (s.rd (baseReg base)) disp ∧
    (k = .load ∧ i = .ldWB rb base disp ∨ k = .store ∧ i = .stWB rb base disp)) ∨
  (∃ ra, wa = wordAddress (s.rd ra) 0 ∧ (k = .load ∧ i = .ldWR rb ra ∨ k = .store ∧ i = .stWR rb ra)) ∨
  (∃ ra disp, s.cpu.misplaced = false ∧ wa = wordAddress (s.rd ra) disp ∧
    (k = .load ∧ i = .ldWE rb ra disp ∨ k = .store ∧ i = .stWE rb ra disp)) ∨
  ∃ disp, wa = s.directWA disp ∧
    (k = .load ∧ i = .ldWD rb disp ∧ (disp ≤ 7 → s.sem s.cpu.flagCN disp = true) ∨
      k = .store ∧ i = .stWD rb disp ∧ (disp ≤ 7 → s.sem s.cpu.flagCN disp = false))

/-- The page of an address allows the access and lies in another node (20_memory.md R95). -/
def State.Remote (s : State) (va : VAddr) (k : AccessKind) : Prop :=
  ∃ d, s.pageOf va = some d ∧ pageDenies d k s.cpu.flagU = false ∧ d.message = true

/-- The TLB holds the page of an address, and the page and the tag of its line allow the access, in this
node (20_memory.md R97, R101). -/
def State.Hits (s : State) (va : VAddr) (kind : AccessKind) (d : PageDesc) : Prop :=
  tlbFind s.tlb va = some d ∧ pageDenies d kind s.cpu.flagU = false ∧ d.message = false ∧
    s.tagDenies (pageAddress d va) kind s.cpu.flagU = false

/-- The TLB maps every address to itself and no page of it faults (92_eei_decisions.md D23), nor does the tag
of a cached line deny an access (20_memory.md R101). -/
def State.IdentityMap (s : State) : Prop :=
  s.tlb = [TlbEntry.identity] ∧ ∀ pa k, s.tagDenies pa k s.cpu.flagU = false

/-- The byte address of the word at a register's address (20_memory.md R81). -/
def wordByte (x : Word) : Nat := 4 * (x.toNat % 2 ^ 30)

/-- The registers R1 to R_n. -/
def runParts (n : Nat) : List Part := (List.range n).map (fun k => Part.reg (regOf (k + 1)))

/-- RCnt. -/
def countParts : List Part := [.status 28, .status 29, .status 30, .status 31]

/-- The bytes data accesses see of the line that holds `pa`. -/
def State.seenLine (s : State) (pa : PAddr) : List Byte :=
  readBytes s.mem (s.lineBase pa).toNat s.lineBytes

/-- The bytes Main Memory holds of the line that holds `pa`. -/
def State.storedLine (s : State) (pa : PAddr) : List Byte := s.mainLine (s.lineBase pa)

/-- Byte `a` lies in the line that holds `pa`. -/
def State.inLine (s : State) (pa : PAddr) (a : Nat) : Prop :=
  (s.lineBase pa).toNat ≤ a ∧ a < (s.lineBase pa).toNat + s.lineBytes

/-- What is fetched at `pa` is what data accesses see: the instruction cache's copy, Main Memory and every
value that R100 still allows of the stores to it agree with them (20_memory.md R100). -/
def State.Coherent (s : State) (pa : PAddr) : Prop := ∀ x ∈ s.fetchChoices pa, x = s.halfIn pa

/-- PU `p` after `n` more of its instructions, tick by tick (70_reset_and_hazards.md R398). -/
def PU.retires (u : PU) (p : PuId) : Nat → Nat → PU
  | 0, _ => u
  | n + 1, tick => (u.retire p tick).retires p n (tick + 1)

/-- No clean line keeps other contents of Main Memory, and no line has a word not stored since CDC made it: no
CDC or VDC is outstanding (20_memory.md R102, 44_cache_control.md R290). -/
def State.NoStale (s : State) : Prop :=
  ∀ (i : Fin 16) (w : Fin 4), ((s.cacheSet i).way w).discards = false

end Sys2Proof.Machine
end

