-- ==== Sys2Proof/Certificates/Slice0/Obligations.lean ====
section
/-! DEFINITION. The statements for the provers. Each docstring names the rules of spec/ it formalises, or
the log entry of a choice of the model it rests on. -/

open Sys2Proof Sys2Proof.Machine

/-! ### Reset, decoding, the step -/

/-- 10_state.md R75, 70_reset_and_hazards.md R390: after reset a PU of RESET_PUS stands at the Reset vector
in system mode with traps off, running; the other PUs are halted. That no interrupt is held, and so none is
accepted, is the model's choice (L10), and that the machine of the model is RESET_PUS = PU 0 is L12. -/
def Obligations.ResetState : Prop :=
  State.reset = State.resetWith 1 ∧
  ∀ (m : BitVec 4) (p : PuId),
    (m.getLsbD p.number = true →
      ((State.resetWith m).pu p).pc = BitVec.ofNat 30 (8 * 0x1F) ∧
      ((State.resetWith m).pu p).npc = BitVec.ofNat 30 (8 * 0x1F + 1) ∧
      ((State.resetWith m).pu p).sscr.extractLsb' 0 16 = 0 ∧
      ((State.resetWith m).pu p).flagW = false ∧ ((State.resetWith m).pu p).flagS = false ∧
      ((State.resetWith m).pu p).rti1 = false) ∧
    (m.getLsbD p.number = false → ((State.resetWith m).pu p).sscr.extractLsb' 0 16 = 0 ∧
      ((State.resetWith m).pu p).flagW = true) ∧
    (State.resetWith m).pend = ⟨false, false, false, false, none⟩ ∧
    ((State.resetWith m).pu p).pendInter = false ∧ ((State.resetWith m).pu p).pendRestart = false ∧
    (State.resetWith m).accepted = none

/-- The model's choice (L10, L11: R75 calls caches and memory unspecified; the model's are empty and well
formed): the invariants of this list hold after reset, whatever RESET_PUS. -/
def Obligations.ResetInvariant : Prop :=
  State.reset.Inv ∧ ∀ m : BitVec 4, (State.resetWith m).Inv

/-- 30_encoding.md R121, R122, R130, R135: under every legal choice of opcode bits, decoding the words of a
well-formed instruction gives it back, and leaves the words after it. -/
def Obligations.DecodeOfEncode : Prop :=
  ∀ (t : Opcodes) (i : Instr) (rest : List Half), t.legal = true → i.wf = true →
    decode t (encode t i ++ rest) = .ok (i, rest)

/-- 30_encoding.md R122, R130, R137: under a legal choice of opcode bits no halfword matches two forms; what
decodes is well formed and encodes to the words it was read from, and what matches no form is illegal. -/
def Obligations.DecodingIsUnambiguous : Prop :=
  ∀ t : Opcodes, t.legal = true →
    (∀ (w : Half) (r q : OpcodeRow), r ∈ t → q ∈ t → w &&& r.form.mask = r.bits →
      w &&& q.form.mask = q.bits → r = q) ∧
    (∀ (ws rest : List Half) (i : Instr), decode t ws = .ok (i, rest) →
      i.wf = true ∧ ws = encode t i ++ rest) ∧
    (∀ (w : Half) (ws : List Half), (∀ r ∈ t, w &&& r.form.mask ≠ r.bits) →
      decode t (w :: ws) = .error (.illegalOpcode w))

/-- 30_encoding.md R125, R130, R132, R135: words written out under the model's own opcode bits (L1) and
field places (L2: R129 calls them not recoverable), both the model's choice, decode to their
instructions. -/
def Obligations.DecodeWords : Prop :=
  decode defaultOpcodes [0x5212] = .ok (.add 1 2, []) ∧
  decode defaultOpcodes [0xDF4F] = .ok (.addI 4 256, []) ∧
  decode defaultOpcodes [0xE3FC] = .ok (.bcc .eq (-4), []) ∧
  decode defaultOpcodes [0x907A] = .ok (.ldWB 7 2 3, []) ∧
  decode defaultOpcodes [0x40CD, 0x0FFF] = .ok (.ldWE 12 13 4096, []) ∧
  decode defaultOpcodes [0x571F] = .ok (.shL 1 1, []) ∧
  decode defaultOpcodes [0x5D07] = .ok (.mskI 8 8, []) ∧
  decode defaultOpcodes [0x297D] = .ok (.rtI, []) ∧
  decode defaultOpcodes [0x0000] = .error (.illegalOpcode 0)

/-- 10_state.md R34, 20_memory.md R87, R89, R97, R100, 70_reset_and_hazards.md R393, R394: with no interrupt
accepted, the PU neither halted, skipping nor frozen, and every value that R100 allows a fetch of the halfword
being what loads see: where nothing is left of an instruction, a step whose halfword at pc decodes to an
instruction is exec of it, on the state after the fetch has filled the TLB and the instruction cache, and then
the end of the step; a first halfword of two, rightly placed and not after a first RtI, is held. A step with a
first halfword held fetches the second and holds the instruction, and a step with the instruction held is exec
of it. -/
def Obligations.StepRunsDecoded : Prop :=
  ∀ (s : State) (d : PageDesc),
    let s0 := s.beginStep
    let filled := fun (va : VAddr) => (s0.fillTlb va).fillFetch (s0.lineBase (pageAddress d va))
    let holds := fun (u : State) (r : Rest) => ∃ t, step s = .next (t.finishStep s0.cpu.flagU) ∧
      t.event = .waiting ∧ t.cpu.run = some r ∧ Unchanged u t [.run]
    s0.accepted = none → s0.cpu.flagW = false → s0.cpu.flagS = false → s0.frozen s0.turn = false →
    (let va := byteOfHalf s0.cpu.pc
     s0.cpu.run = none → s0.Allows va .fetch d → s0.Coherent (pageAddress d va) →
      (∀ i, (s0.cpu.rti1 = true → i = .rtI) →
        decode s0.params.opcodes [s0.halfIn (pageAddress d va)] = .ok (i, []) →
        step s = ended (exec i (filled va)) s0.cpu.flagU) ∧
      (s0.cpu.rti1 = false → s0.cpu.misplaced = false →
        decode s0.params.opcodes [s0.halfIn (pageAddress d va)] = .error .truncated →
        holds (filled va) (.second (s0.halfIn (pageAddress d va))))) ∧
    (∀ (w : Half) (i : Instr),
      let vb := byteOfHalf (pcAdd s0.cpu.pc 1)
      s0.cpu.run = some (.second w) → s0.Allows vb .fetch d → s0.Coherent (pageAddress d vb) →
      decode s0.params.opcodes [w, s0.halfIn (pageAddress d vb)] = .ok (i, []) →
      holds (filled vb) (.access i)) ∧
    (∀ i : Instr, s0.cpu.run = some (.access i) → (s0.cpu.rti1 = true → i = .rtI) →
      step s = ended (exec i (s0.withRest none)) s0.cpu.flagU)

/-- 10_state.md R34 step 2, R71, 20_memory.md R89, R91, R92, 60_exceptions.md R365, 42_compare_branch.md R240,
45_control.md R332, 70_reset_and_hazards.md R393: where no interrupt is accepted, a step of a PU in a run of
transfers makes the run's next transfer. With nothing left of an instruction, a halted PU that is in no Wait,
or in one with an empty mask, keeps everything; in the step of a halted PU every PU whose Wait is satisfied
goes on after it, the stepping PU with them, and the others keep everything (that they go on all together,
in the step of any halted PU, is the model's choice, L37); a pending skip of a PU not
halted takes the whole step: S is cleared, the program counters move on, and nothing is executed, whatever
stands at pc but LdWE or StWE, which is refused; and a PU frozen on a semaphore keeps everything. -/
def Obligations.SkippedAndHaltedSlots : Prop :=
  ∀ s : State,
    let s0 := s.beginStep
    s0.accepted = none →
    (∀ x, s0.cpu.run = some (.move x) → step s = ended (.next (s0.transferOne x)) s0.cpu.flagU) ∧
    (s0.cpu.run = none →
      (s0.cpu.flagW = false → s0.cpu.flagS = true →
        (s0.atExtended = false → ∃ t, step s = .next (t.finishStep s0.cpu.flagU) ∧
          t.At s0.cpu.npc (pcAdd s0.cpu.npc 1) false .skipped ∧ t.cpu.flagS = false ∧
          Unchanged s0 t (stepParts ++ [.status 27])) ∧
        (∀ d, s0.Allows (byteOfHalf s0.cpu.pc) .fetch d →
          s0.Coherent (pageAddress d (byteOfHalf s0.cpu.pc)) →
          decode s0.params.opcodes [s0.halfIn (pageAddress d (byteOfHalf s0.cpu.pc))] =
            .error .truncated → step s = .refused .extendedAfterBranch)) ∧
      (s0.cpu.flagW = true → s0.cpu.waitMask = none ∨ s0.cpu.waitMask = some 0 →
        ∃ t, step s = .next (t.finishStep s0.cpu.flagU) ∧ t.cpu = s0.cpu ∧
          t.event = .waiting ∧ Unchanged s0 t [.otherPus]) ∧
      (s0.cpu.flagW = true → ∃ t, step s = .next (t.finishStep s0.cpu.flagU) ∧ t.event = .waiting ∧
        (∀ q, (s0.WaitMet q → WaitEnds (s0.pu q) (t.pu q) ∧
            ∀ j < 32, j ≠ 25 → (t.pu q).sscr.getLsbD j = (s0.pu q).sscr.getLsbD j) ∧
          (¬s0.WaitMet q → t.pu q = s0.pu q)) ∧
        Unchanged s0 t (stepParts ++ [.status 25, .waitMask, .waitEnded, .otherPus])) ∧
      (s0.cpu.flagW = false → s0.cpu.flagS = false → s0.frozen s0.turn = true →
        ∃ t, step s = .next (t.finishStep s0.cpu.flagU) ∧ t.event = .waiting ∧ Unchanged s0 t []))

/-- 30_encoding.md R137, 20_memory.md R87, R89, 60_exceptions.md R351, R356, R358, 70_reset_and_hazards.md R394:
a halfword that matches no form raises trap 0x16, but after the first RtI of a pair is refused (U4); a fetch
from an absent page raises 0x12 and from a protected one 0x14, with SH telling the half that faulted, the
second half of a LdWE or StWE being fetched in a step of its own; the saved pair is the instruction's own. -/
def Obligations.FetchAndDecodeTraps : Prop :=
  ∀ (s : State) (d : PageDesc),
    let s0 := s.beginStep
    let va := byteOfHalf s0.cpu.pc
    let vb := byteOfHalf (pcAdd s0.cpu.pc 1)
    let pa := pageAddress d va
    let faults := fun (v : VAddr) (n : Nat) => (s0.pageOf v = none ∧ n = 0x12) ∨
      (∃ x, s0.pageOf v = some x ∧ s0.cpu.flagU = true ∧ x.user = false ∧ n = 0x14)
    let traps := fun (n : Nat) (half : Bool) => ∃ t, step s = .next (t.finishStep s0.cpu.flagU) ∧
      Unchanged s0 t (entryParts ++ [.tlb, .instCache]) ∧
      t.AtEntry s0.turn (if s0.cpu.flagT then n else 0x1E) ∧
      (s0.cpu.flagT = true → t.cpu.qHead = s0.cpu.pc ∧ t.cpu.qTail = s0.cpu.npc ∧
        (∀ j < 32, j ≠ 26 → t.cpu.statusSave.getLsbD j = s0.cpu.sscr.getLsbD j) ∧
        (n ≠ 0x16 → t.cpu.statusSave.getLsbD 26 = half))
    s0.accepted = none → s0.cpu.flagW = false → s0.cpu.flagS = false → s0.frozen s0.turn = false →
    (s0.cpu.run = none →
      (∀ n, faults va n → traps n false) ∧
      (∀ w, s0.Allows va .fetch d → s0.Coherent pa →
        decode s0.params.opcodes [s0.halfIn pa] = .error (.illegalOpcode w) →
        (s0.cpu.rti1 = false → traps 0x16 false) ∧
        (s0.cpu.rti1 = true → step s = .refused .rtiPairBroken))) ∧
    (∀ w n, s0.cpu.run = some (.second w) → faults vb n → traps n true)

/-! ### Interrupts and counters -/

/-- 60_exceptions.md R345, R348, R352, R353, 70_reset_and_hazards.md R390: a step that accepts an interrupt
accepts the highest number that is deliverable. Below Reset, the PU enters its vector: with traps enabled
its own program counters and status are saved, no register changes, the cause or the individual enable of
that interrupt is cleared (both counters' enables where both have overflowed, by L41, where R343 speaks of
the counter that overflowed; a directed Restart before a held nondirected one; PowerFail's by L14, where R348
says "not stated"), and every other cause stays held. A Reset by pushbutton enters its vector on every PU of
RESET_PUS and halts the others in system mode; that registers and other held causes stay is L14. -/
def Obligations.InterruptTaken : Prop :=
  ∀ (s : State) (n : Fin 32),
    let s0 := s.beginStep
    s0.accepted = some n →
    (∀ m : Fin 32, n < m → s0.deliverable s0.turn m = false) ∧
    (n ≠ 0x1F → ∃ t, step s = .next (t.finishStep s0.cpu.flagU) ∧ t.AtEntry s0.turn n.val ∧
      (s0.cpu.flagT = true → t.Saved s0.turn s0.cpu.sscr s0.cpu.pc s0.cpu.npc) ∧
      (∀ j < 16, t.s12.getLsbD j =
        if n = 0x19 ∧ (j = 15 ∧ s0.s12.getLsbD 14 = true ∨ j = 7 ∧ s0.s12.getLsbD 6 = true) then false
        else s0.s12.getLsbD j) ∧
      (∀ j < 32, t.s14.getLsbD j =
        if n = 0x18 ∧ j = 31 then false
        else if n = 0x1A ∧ j < 30 then (s0.pend.interChip.getD 0).getLsbD j else s0.s14.getLsbD j) ∧
      t.pend = { s0.pend with
        machineCheck := s0.pend.machineCheck && n != 0x1E
        restart := s0.pend.restart && (n != 0x1D || s0.cpu.pendRestart)
        powerFail := s0.pend.powerFail && n != 0x1C
        interChip := if n = 0x1A then none else s0.pend.interChip } ∧
      t.cpu.pendInter = (s0.cpu.pendInter && n != 0x1B) ∧
      t.cpu.pendRestart = (s0.cpu.pendRestart && n != 0x1D) ∧
      Unchanged s0 t
        (entryParts ++ [.pendInter, .pendRestart, .eventConfig, .interruptArgument, .pending])) ∧
    (n = 0x1F → ∃ t, step s = .next (t.finishStep s0.cpu.flagU) ∧
      t.pend = { s0.pend with reset := false } ∧ Unchanged s0 t (entryParts ++ [.otherPus, .pending]) ∧
      ∀ p : PuId,
        (s0.params.resetPus.getLsbD p.number = true → t.AtEntry p 0x1F) ∧
        (s0.params.resetPus.getLsbD p.number = false →
          (t.pu p).sscr.extractLsb' 0 16 = 0 ∧ (t.pu p).flagW = true ∧ (t.pu p).flagS = false ∧
          (t.pu p).rti1 = false ∧ (t.pu p).waitSem = none ∧ (t.pu p).run = none ∧
          (t.pu p).waitMask = none) ∧
        (t.pu p).regs = (s0.pu p).regs ∧ (t.pu p).mask = (s0.pu p).mask ∧
        (t.pu p).remainder = (s0.pu p).remainder ∧ (t.pu p).product = (s0.pu p).product ∧
        (t.pu p).trapArg = (s0.pu p).trapArg ∧ (t.pu p).pendInter = (s0.pu p).pendInter ∧
        (t.pu p).pendRestart = (s0.pu p).pendRestart)

/-- 60_exceptions.md R342, R345, R346, R347, 40_load_store_move.md R165, R175: an interrupt other than Reset is
accepted by no PU between two RtIs or within LdM, StM, LdWE or StWE, and one below 0x1C by none that has
traps disabled or is frozen; of the PUs that can accept a nondirected interrupt one is selected, available
before halted before running. That a Reset by pushbutton is the whole chip's (70_reset_and_hazards.md R390)
and waits until every PU of RESET_PUS is where it can enter, and that any PU's step then takes it, whatever
that PU is in, is the model's choice (L14). -/
def Obligations.InterruptSelection : Prop :=
  (∀ (s : State) (n : Fin 32), s.accepted = some n → n ≠ 0x1F →
    s.cpu.rti1 = false ∧ s.cpu.run = none ∧
      (n.val < 0x1C → s.cpu.flagT = true ∧ s.frozen s.turn = false)) ∧
  (∀ s : State, s.accepted = some 0x1F ↔ s.pend.reset = true ∧
    ∀ p : PuId, s.params.resetPus.getLsbD p.number = true →
      (s.pu p).rti1 = false ∧ (s.pu p).run = none) ∧
  (∀ (s : State) (n : Fin 32), (∃ q, s.canAccept q n = true) → ∃ p, s.selected p n = true) ∧
  (∀ (s : State) (p q : PuId) (n : Fin 32), n.val ∈ [0x18, 0x19, 0x1A, 0x1C, 0x1E] →
    s.deliverable p n = true → s.canAccept q n = true →
      ((s.pu q).savedStatus.getLsbD 4 = true → (s.pu p).savedStatus.getLsbD 4 = true) ∧
      ((s.pu q).savedStatus.getLsbD 4 = false → (s.pu p).savedStatus.getLsbD 4 = false →
        (s.pu q).flagW = true → (s.pu p).flagW = true))

/-- 60_exceptions.md R361, 10_state.md R61: each of the two event counters, set to count the instructions of a
PU and mode, goes up by one for each instruction that the PU completes in that mode in a step: its own, of
one halfword, and a Wait of its that ends in the step, by the rendezvous (in a step that itself completes
nothing) or by another PU's Rsm (in a step that completes the Rsm). It sets its overflow bit when it wraps,
and stays put for another PU or mode. -/
def Obligations.InstructionCount : Prop :=
  ∀ (s : State) (user : Bool) (cfg cfg' : BitVec 8) (v v' : Word),
    let t := s.finishStep user
    (cfg = s.config1 ∧ cfg' = t.config1 ∧ v = s.s10 ∧ v' = t.s10) ∨
      (cfg = s.config2 ∧ cfg' = t.config2 ∧ v = s.s11 ∧ v' = t.s11) →
    cfg.getLsbD 2 = false → cfg.getLsbD 3 = false →
    let counts := fun (q : PuId) (mode : Bool) =>
      (cfg.extractLsb' 0 2).toNat = q.number ∧ (if mode then cfg.getLsbD 4 else cfg.getLsbD 5) = true
    let ends := ∃ q, (s.pu q).waitEnded = true ∧ counts q (s.pu q).flagU
    let up := fun (n : Nat) => v'.toNat = (v.toNat + n) % 2 ^ 32 ∧
      ∀ j < 8, cfg'.getLsbD j = (cfg.getLsbD j || (j == 6 && decide (2 ^ 32 ≤ v.toNat + n)))
    (s.event = .finished →
      (counts s.turn user → ends → up 2) ∧ (counts s.turn user → ¬ends → up 1) ∧
      (¬counts s.turn user → ends → up 1) ∧ (¬counts s.turn user → ¬ends → up 0)) ∧
    (s.event = .waiting → (ends → up 1) ∧ (¬ends → up 0))

/-! ### What every step keeps -/

/-- 20_memory.md R80, L11: every step keeps memory in its canonical form. -/
def Obligations.MemoryStaysCanonical : Prop :=
  ∀ s t : State, memoryWf s.mem → step s = .next t → memoryWf t.mem

/-- 44_cache_control.md R300, 45_control.md R322, R332, 70_reset_and_hazards.md R398: every step keeps the data
cache well formed, one record of stores a halfword (20_memory.md R100, L8), system mode with traps off between
two RtIs, W set in a PU blocked in Wait and clear in one within LdM or StM, the next transfer of a run one of
its registers, and the result-pending intervals running; it leaves no ended Wait uncounted; and it keeps the
chip's parameters. -/
def Obligations.CachesAndMarksStayWellFormed : Prop :=
  ∀ s t : State, step s = .next t → t.params = s.params ∧ (s.CacheWf → t.CacheWf) ∧ (s.StoredWf → t.StoredWf) ∧
    ((∀ p : PuId, (s.pu p).Wf) → ∀ p : PuId, (t.pu p).Wf)

/-- 60_exceptions.md R360, R366, 10_state.md R41, R66, 70_reset_and_hazards.md R390: a step that a PU begins in
user mode enters an exception, or is a Reset of the chip that halts the PU in system mode, or leaves the PU
in user mode with its system mode bits as they were. Without an interrupt it writes neither S4, the
interrupt register, the page table register nor, in cluster 0, the window, and of the event configuration,
where that is privileged, only the overflow bits, which counting sets. -/
def Obligations.UserModeIsContained : Prop :=
  ∀ s t : State,
    let s0 := s.beginStep
    s0.cpu.flagU = true → step s = .next t →
    ((∃ n < 32, t.AtEntry s0.turn n) ∨
      (s0.accepted = some 0x1F ∧ (t.pu s0.turn).sscr.extractLsb' 0 16 = 0 ∧ (t.pu s0.turn).flagW = true) ∨
      (t.pu s0.turn).sscr.extractLsb' 8 8 = s0.cpu.sscr.extractLsb' 8 8) ∧
    (s0.accepted = none → t.s4 = s0.s4 ∧ t.s15 = s0.s15 ∧ t.s14 = s0.s14 ∧
      (s0.cpu.flagCN = false → t.window1 = s0.window1) ∧
      (s0.privileged .eventConfig = true →
        ∀ j < 16, j ≠ 6 → j ≠ 14 → t.s12.getLsbD j = s0.s12.getLsbD j))

/-- 45_control.md R311, R314, R320, R325, R328, R332: an instruction changes another PU's general registers
only if it is Send, its program counters only if it is Rsm, Strt or Wait, and never its special registers
nor any SSCR bit but A and W. -/
def Obligations.OtherPusProtected : Prop :=
  ∀ (i : Instr) (s t : State) (q : PuId), q ≠ s.turn → exec i s = .next t →
    (i.form ≠ .send → (t.pu q).regs = (s.pu q).regs) ∧
    (i.form ∉ [Form.rsm, Form.strt, Form.wait] →
      (t.pu q).pc = (s.pu q).pc ∧ (t.pu q).npc = (s.pu q).npc ∧ (t.pu q).sscr = (s.pu q).sscr) ∧
    (∀ j, j ≠ 4 → j ≠ 25 → (t.pu q).sscr.getLsbD j = (s.pu q).sscr.getLsbD j) ∧
    (t.pu q).mask = (s.pu q).mask ∧ (t.pu q).remainder = (s.pu q).remainder ∧
    (t.pu q).product = (s.pu q).product ∧ (t.pu q).statusSave = (s.pu q).statusSave ∧
    (t.pu q).trapArg = (s.pu q).trapArg ∧ (t.pu q).qHead = (s.pu q).qHead ∧
    (t.pu q).qTail = (s.pu q).qTail ∧ (t.pu q).rti1 = (s.pu q).rti1

/-! ### Arithmetic -/

/-- 41_arithmetic.md R200, R202 to R204, R210, R212 to R214: Add, Add Immediate and AddC store the sum modulo
2^32 with the flags of the exact sum, carry in C0; Sub, Subtract Immediate, SubC and Neg the difference, the
carry then being "not borrow". With V and VE they take the Overflow trap, RegB then old or new (OVF_COMMIT). -/
def Obligations.FullWordArithmetic : Prop :=
  (∀ (rb ra : Reg) (s : State), FullWordResult (.add rb ra) s rb
    ((s.rd rb).toInt + (s.rd ra).toInt) (2 ^ 32 ≤ (s.rd rb).toNat + (s.rd ra).toNat)) ∧
  (∀ (rb : Reg) (imm : Nat) (s : State), (Instr.addI rb imm).wf = true →
    FullWordResult (.addI rb imm) s rb ((s.rd rb).toInt + imm) (2 ^ 32 ≤ (s.rd rb).toNat + imm)) ∧
  (∀ (rb ra : Reg) (s : State), FullWordResult (.addC rb ra) s rb
    ((s.rd rb).toInt + (s.rd ra).toInt + (s.cpu.carry 0).toNat)
    (2 ^ 32 ≤ (s.rd rb).toNat + (s.rd ra).toNat + (s.cpu.carry 0).toNat)) ∧
  (∀ (rb ra : Reg) (s : State), FullWordResult (.sub rb ra) s rb
    ((s.rd rb).toInt - (s.rd ra).toInt) ((s.rd ra).toNat ≤ (s.rd rb).toNat)) ∧
  (∀ (rb : Reg) (imm : Nat) (s : State), (Instr.subI rb imm).wf = true →
    FullWordResult (.subI rb imm) s rb ((s.rd rb).toInt - imm) (imm ≤ (s.rd rb).toNat)) ∧
  (∀ (rb ra : Reg) (s : State), FullWordResult (.subC rb ra) s rb
    ((s.rd rb).toInt - (s.rd ra).toInt - 1 + (s.cpu.carry 0).toNat)
    ((s.rd ra).toNat + 1 ≤ (s.rd rb).toNat + (s.cpu.carry 0).toNat)) ∧
  (∀ (rb ra : Reg) (s : State), FullWordResult (.neg rb ra) s rb (-(s.rd ra).toInt) (s.rd ra = 0))

/-- 41_arithmetic.md R201, R205, R211, R215, R216: AddP and AdCP add lane by lane, SubP and SbCP subtract, a
lane's carry out then being "not borrow"; the carry into a lane of AdCP and SbCP is the lane's own carry
bit. -/
def Obligations.PartialSumsAndDifferences : Prop :=
  (∀ (rb ra : Reg) (s : State), LaneResult (.addP rb ra) s rb
    (fun k => laneOf s.cpu.flagH (s.rd rb) k + laneOf s.cpu.flagH (s.rd ra) k)) ∧
  (∀ (rb ra : Reg) (s : State), LaneResult (.adCP rb ra) s rb
    (fun k => laneOf s.cpu.flagH (s.rd rb) k + laneOf s.cpu.flagH (s.rd ra) k + (s.cpu.carry k).toNat)) ∧
  (∀ (rb ra : Reg) (s : State), LaneResult (.subP rb ra) s rb
    (fun k => laneOf s.cpu.flagH (s.rd rb) k + 2 ^ laneWidth s.cpu.flagH -
      laneOf s.cpu.flagH (s.rd ra) k)) ∧
  (∀ (rb ra : Reg) (s : State), LaneResult (.sbCP rb ra) s rb
    (fun k => laneOf s.cpu.flagH (s.rd rb) k + (2 ^ laneWidth s.cpu.flagH - 1) -
      laneOf s.cpu.flagH (s.rd ra) k + (s.cpu.carry k).toNat))

/-- 41_arithmetic.md R208, R209, 70_reset_and_hazards.md R398: Mul leaves the low word of RegB * RegA, plus
Product if MDfull is set, in RegB and the high word, signed or not as MUL_SIGNED says, in Product; both
results become pending. MulP leaves MulPFn's word in RegB. Both clear MDfull. A Mul's RegB and Product stay pending
through the PU's next four instructions and then read as they were left, if none of them writes them or
issues a Mul or Div; a write of a pending register, or a Mul, makes what it holds in the end an open value.
The window counts completed instructions (L30). -/
def Obligations.MultiplyResults : Prop :=
  (∀ (rb ra : Reg) (s : State),
    let c : Word := if s.cpu.flagF then s.cpu.readDest s.tick .product else 0
    ∃ t, exec (.mul rb ra) s = .next t ∧
      (t.cpu.reg rb).toNat = ((s.rd rb).toNat * (s.rd ra).toNat + c.toNat) % 2 ^ 32 ∧
      (Config.mulSigned = false →
        t.cpu.product.toNat = ((s.rd rb).toNat * (s.rd ra).toNat + c.toNat) / 2 ^ 32) ∧
      (Config.mulSigned = true →
        t.cpu.product.toInt = ((s.rd rb).toInt * (s.rd ra).toInt + c.toInt) / 2 ^ 32) ∧
      t.cpu.flagF = false ∧
      (∀ d, t.cpu.busy d = (d == .gpr rb || d == .product || s.cpu.busy d)) ∧
      Advances s t ∧
      Unchanged s t (stepParts ++ [.reg rb, .product, .status 2, .intervals])) ∧
  (∀ (rb ra : Reg) (s : State), Writes (.mulP rb ra) s rb
    (Config.mulPFn s.cpu.flagH (s.rd rb) (s.rd ra) s.cpu.flagF (s.cpu.readDest s.tick .product))
    [.status 2] (fun t => t.cpu.flagF = false)) ∧
  (∀ (rb ra : Reg) (s t : State) (tick n : Nat), s.cpu.inflight = [] → exec (.mul rb ra) s = .next t →
    ((t.cpu.retires s.turn n tick).busy (.gpr rb) = decide (n < 5)) ∧
    ((t.cpu.retires s.turn n tick).busy .product = decide (n < 5)) ∧
    (t.cpu.retires s.turn n tick).reg rb = t.cpu.reg rb ∧
    (t.cpu.retires s.turn n tick).product = t.cpu.product) ∧
  (∀ (rb ra : Reg) (s t : State) (e : InFlight), e ∈ s.cpu.inflight →
    (e.dest = .gpr rb ∧ exec (.mov rb ra) s = .next t) ∨ exec (.mul rb ra) s = .next t →
    ∃ f ∈ t.cpu.inflight, f.dest = e.dest ∧ f.spoiled = true ∧ e.left ≤ f.left) ∧
  (∀ (u : PU) (p : PuId) (tick : Nat) (e : InFlight), u.InFlightWf → e ∈ u.inflight → e.left = 1 →
    (u.retire p tick).busy e.dest = false ∧
    (e.spoiled = true → ∃ k g, (u.retire p tick).getDest e.dest = Config.freeWord k g) ∧
    (e.spoiled = false → (u.retire p tick).getDest e.dest = u.getDest e.dest))

/-- 41_arithmetic.md R207, 70_reset_and_hazards.md R398: where the quotient fits, Div leaves it in RegB and
the remainder in Remainder, clears MDfull, and both results become pending. Where it does not fit, or the
divisor is zero, Div clears MDfull and either takes the Overflow trap (with VE, and on a zero divisor with
MDfull clear only as DIV0_TRAPS says) or completes, the values of RegB and Remainder left open. Results stay
pending through the PU's next DIV_LATENCY - 1 instructions, 16 or 32, and then read as they were left, if
none of them writes them or issues a Mul or Div; a Div, and by the model's choice (L30) also one that traps,
makes the results still pending end as open values. -/
def Obligations.DivideResults : Prop :=
  (∀ (rb ra : Reg) (s : State),
    let hi : Word := if s.cpu.flagF then s.cpu.readDest s.tick .remainder else 0
    let n := hi.toNat * 2 ^ 32 + (s.rd rb).toNat
    hi.toNat < (s.rd ra).toNat →
      ∃ t, exec (.div rb ra) s = .next t ∧
        (t.cpu.reg rb).toNat = n / (s.rd ra).toNat ∧ t.cpu.remainder.toNat = n % (s.rd ra).toNat ∧
        t.cpu.flagF = false ∧
        (∀ d, t.cpu.busy d = (d == .gpr rb || d == .remainder || s.cpu.busy d)) ∧
        Advances s t ∧ Unchanged s t (stepParts ++ [.reg rb, .remainder, .status 2, .intervals])) ∧
  (∀ (rb ra : Reg) (s : State),
    let large := s.cpu.flagF = true ∧ (s.rd ra).toNat ≤ (s.cpu.readDest s.tick .remainder).toNat
    let zero := s.cpu.flagF = false ∧ s.rd ra = 0
    let traps := s.cpu.flagVE = true ∧ (large ∨ Config.div0Traps = true)
    large ∨ zero →
      (traps → ∃ t, exec (.div rb ra) s = .next t ∧
        t.AtEntry s.turn (if s.cpu.flagT then 0x17 else 0x1E) ∧
        (s.cpu.flagT = true →
          t.Saved s.turn (s.cpu.sscr &&& 0xFFFFFFFB) s.cpu.pc s.cpu.npc) ∧
        Unchanged s t entryParts) ∧
      (¬traps → ∃ t, exec (.div rb ra) s = .next t ∧ t.cpu.flagF = false ∧
        (∀ d, t.cpu.busy d = (d == .gpr rb || d == .remainder || s.cpu.busy d)) ∧
        Advances s t ∧ Unchanged s t (stepParts ++ [.reg rb, .remainder, .status 2, .intervals]))) ∧
  (∀ (rb ra : Reg) (s t : State) (tick n : Nat), s.cpu.inflight = [] → s.cpu.flagVE = false →
    exec (.div rb ra) s = .next t →
    let latency := if s.params.divShort then 17 else 33
    ((t.cpu.retires s.turn n tick).busy (.gpr rb) = decide (n < latency)) ∧
    ((t.cpu.retires s.turn n tick).busy .remainder = decide (n < latency)) ∧
    (t.cpu.retires s.turn n tick).reg rb = t.cpu.reg rb ∧
    (t.cpu.retires s.turn n tick).remainder = t.cpu.remainder) ∧
  (∀ (rb ra : Reg) (s t : State) (e : InFlight), e ∈ s.cpu.inflight → exec (.div rb ra) s = .next t →
    ∃ f ∈ t.cpu.inflight, f.dest = e.dest ∧ f.spoiled = true ∧ e.left ≤ f.left)

/-- 41_arithmetic.md R206: CLZ counts the zeros above the highest set bit, its flags describing the source;
32 for zero (L45, DESIGN CHOICE D29). -/
def Obligations.LeadingZeros : Prop :=
  ∀ (rb ra : Reg) (s : State), ∃ n : Nat,
    (s.rd ra = 0 → n = 32) ∧
    (s.rd ra ≠ 0 → n < 32 ∧ (s.rd ra).getLsbD (31 - n) = true) ∧
    (∀ k < n, (s.rd ra).getLsbD (31 - k) = false) ∧
    Writes (.clz rb ra) s rb (BitVec.ofNat 32 n) nzvParts
      (fun t => t.cpu.SignOf (s.rd ra) ∧ t.cpu.flagV = false)

/-! ### Compare, branch, skip -/

/-- 42_compare_branch.md R233, R234, 10_state.md R48: after Cmp or Compare Immediate the four signed
conditions and the four unsigned ones hold exactly as the operands compare; no register is written. -/
def Obligations.CompareConditions : Prop :=
  ∀ (rb ra : Reg) (imm : Nat) (s : State) (i : Instr) (b a : Word),
    (i = .cmp rb ra ∧ b = s.rd rb ∧ a = s.rd ra) ∨
      (i = .cmpI rb imm ∧ i.wf = true ∧ b = s.rd rb ∧ a.toNat = imm) →
    Completes i s flagParts (fun t =>
      (t.cond .lt = true ↔ b.toInt < a.toInt) ∧ (t.cond .ge = true ↔ a.toInt ≤ b.toInt) ∧
      (t.cond .gt = true ↔ a.toInt < b.toInt) ∧ (t.cond .le = true ↔ b.toInt ≤ a.toInt) ∧
      (t.cond .lo = true ↔ b.toNat < a.toNat) ∧ (t.cond .hs = true ↔ a.toNat ≤ b.toNat) ∧
      (t.cond .hi = true ↔ a.toNat < b.toNat) ∧ (t.cond .ls = true ↔ b.toNat ≤ a.toNat) ∧
      (t.cond .eq = true ↔ b = a) ∧ (t.cond .ne = true ↔ b ≠ a) ∧
      t.cond .ov = false ∧ t.cond .nv = true ∧ t.cpu.carry 1 = false ∧ t.cpu.carry 2 = false ∧
      t.cpu.carry 3 = false)

/-- 42_compare_branch.md R235, 41_arithmetic.md R216: CmpP writes the flags of the lane differences, and
LdCP (40_load_store_move.md R164) then makes a mask of the lanes where RegB is below RegA. -/
def Obligations.ComparePartialThenMask : Prop :=
  (∀ (rb ra : Reg) (s : State), Completes (.cmpP rb ra) s flagParts (fun t =>
    t.cpu.LaneFlags s.cpu.flagH (fun k => laneOf s.cpu.flagH (s.rd rb) k + 2 ^ laneWidth s.cpu.flagH -
      laneOf s.cpu.flagH (s.rd ra) k))) ∧
  (∀ (ra : Reg) (s : State), ∃ t v, exec (.ldCP ra) s = .next t ∧ t.cpu.reg ra = v ∧
    (∀ k ∈ lanes s.cpu.flagH, laneOf s.cpu.flagH v k =
      if s.cpu.carry k then 0 else 2 ^ laneWidth s.cpu.flagH - 1) ∧
    Advances s t ∧ Unchanged s t (stepParts ++ [.reg ra])) ∧
  (∀ (rb ra rd : Reg) (s t u : State), exec (.cmpP rb ra) s = .next t → exec (.ldCP rd) t = .next u →
    ∀ k ∈ lanes s.cpu.flagH, laneOf s.cpu.flagH (u.cpu.reg rd) k =
      if laneOf s.cpu.flagH (s.rd rb) k < laneOf s.cpu.flagH (s.rd ra) k then
        2 ^ laneWidth s.cpu.flagH - 1 else 0)

/-- 10_state.md R48, 42_compare_branch.md R232, R240, 40_load_store_move.md R161, 70_reset_and_hazards.md R393,
R394: the conditions are the table's combinations of N, Z, V and the carries. Lcc, Bcc and Skcc read one
condition: Lcc loads 1 or 0, an untaken Bcc is sequential, Skcc makes the next slot a skipped one exactly
if the condition holds; the slot after Bcc and Skcc is marked as one. -/
def Obligations.ConditionUses : Prop :=
  (∀ s : State,
    let z := s.cpu.flagZ
    let n := s.cpu.flagN
    let v := s.cpu.flagV
    let c := s.cpu.carry 0 || s.cpu.carry 1 || s.cpu.carry 2 || s.cpu.carry 3
    s.cond .eq = z ∧ s.cond .ne = !z ∧ s.cond .lt = n ∧ s.cond .ge = !n ∧ s.cond .le = (n || z) ∧
    s.cond .gt = !(n || z) ∧ s.cond .lo = !c ∧ s.cond .hs = c ∧ s.cond .ls = (!c || z) ∧
    s.cond .hi = (c && !z) ∧ s.cond .ov = v ∧ s.cond .nv = !v) ∧
  (∀ (rb : Reg) (cc : Cc) (s : State),
    Writes (.lcc rb cc) s rb (if s.cond cc then 1 else 0) [] (fun _ => True)) ∧
  (∀ (cc : Cc) (d : Int) (s : State), s.cond cc = false →
    ∃ t, exec (.bcc cc d) s = .next t ∧ AdvancesMarked s t ∧ Unchanged s t stepParts) ∧
  (∀ (cc : Cc) (s : State), ∃ t, exec (.skcc cc) s = .next t ∧ AdvancesMarked s t ∧
    t.cpu.flagS = (s.cond cc || s.cpu.flagS) ∧ Unchanged s t (stepParts ++ [.status 27]))

/-- 42_compare_branch.md R230, R232, R236, R237, R238: with B clear a taken Bcc, a Jmp or a JmpL goes on in
its shadow, which is marked as one (70_reset_and_hazards.md R393, R394), then at its target, which is read
before R4 is written; JmpL leaves the shadow's successor in R4. -/
def Obligations.TakenTransfers : Prop :=
  ∀ s : State, s.cpu.flagB = false →
    (∀ (cc : Cc) (d : Int), s.cond cc = true → ∃ t, exec (.bcc cc d) s = .next t ∧
      Branches s t (pcAdd s.cpu.pc d) ∧ Unchanged s t stepParts) ∧
    (∀ d : Int, ∃ t, exec (.jmpR d) s = .next t ∧
      Branches s t (pcAdd s.cpu.pc d) ∧ Unchanged s t stepParts) ∧
    (∀ ra : Reg, ∃ t, exec (.jmpA ra) s = .next t ∧
      Branches s t ((s.rd ra).setWidth 30) ∧ Unchanged s t stepParts) ∧
    (∀ ra : Reg, ∃ t, exec (.jmpL ra) s = .next t ∧
      Branches s t ((s.rd ra).setWidth 30) ∧ (t.cpu.reg 4).toNat = (s.cpu.npc.toNat + 1) % 2 ^ 30 ∧
      Unchanged s t (stepParts ++ [.reg 4]))

/-- 60_exceptions.md R349, 10_state.md R34: with B set a taken transfer is made and then trap 0x16 is taken
before the shadow, the saved pair being (shadow, target); JmpL's R4 stays written. -/
def Obligations.TakenBranchTrap : Prop :=
  ∀ (s : State) (i : Instr) (target : HAddr), s.cpu.flagB = true →
    (∃ cc d, i = .bcc cc d ∧ s.cond cc = true ∧ target = pcAdd s.cpu.pc d) ∨
    (∃ d, i = .jmpR d ∧ target = pcAdd s.cpu.pc d) ∨
    (∃ ra, (i = .jmpA ra ∨ i = .jmpL ra) ∧ target = (s.rd ra).setWidth 30) →
    ∃ t, exec i s = .next t ∧
      (if s.cpu.flagT then t.AtEntry s.turn 0x16 ∧ t.Saved s.turn s.cpu.sscr s.cpu.npc target
       else t.AtEntry s.turn 0x1E) ∧
      ((∃ ra, i = .jmpL ra) → (t.cpu.reg 4).toNat = (s.cpu.npc.toNat + 1) % 2 ^ 30) ∧
      Unchanged s t (entryParts ++ (if i.form = .jmpL then [.reg 4] else []))

/-- 42_compare_branch.md R231, 40_load_store_move.md R162, R171: AdPC adds pc + 1, Ld loads its immediate,
Mov copies; none touches a flag. -/
def Obligations.MovesAndProgramCounterReads : Prop :=
  (∀ (ra : Reg) (s : State), ∃ v : Word,
    v.toNat = ((s.rd ra).toNat + (s.cpu.pc.toNat + 1) % 2 ^ 30) % 2 ^ 32 ∧
    Writes (.adPC ra) s ra v [] (fun _ => True)) ∧
  (∀ (rb : Reg) (imm : Nat) (s : State), (Instr.ld rb imm).wf = true → ∃ v : Word, v.toNat = imm ∧
    Writes (.ld rb imm) s rb v [] (fun _ => True)) ∧
  (∀ (rb ra : Reg) (s : State), Writes (.mov rb ra) s rb (s.rd ra) [] (fun _ => True))

/-! ### Logic, shifts, fields -/

/-- 43_shift_logical_field.md R261, R262, R271, R272, R276: the logical instructions bit by bit, N and Z of
the result, V cleared except by Or, the carries kept. -/
def Obligations.LogicalResults : Prop :=
  ∀ (rb ra : Reg) (s : State),
    (∃ v, (∀ j < 32, v.getLsbD j = ((s.rd rb).getLsbD j && (s.rd ra).getLsbD j)) ∧
      WritesNZ (.and rb ra) s rb v) ∧
    (∃ v, (∀ j < 32, v.getLsbD j = ((s.rd rb).getLsbD j && !(s.rd ra).getLsbD j)) ∧
      WritesNZ (.andC rb ra) s rb v) ∧
    (∃ v, (∀ j < 32, v.getLsbD j = ((s.rd rb).getLsbD j != (s.rd ra).getLsbD j)) ∧
      WritesNZ (.xOr rb ra) s rb v) ∧
    (∃ v, (∀ j < 32, v.getLsbD j = !(s.rd ra).getLsbD j) ∧ WritesNZ (.not rb ra) s rb v) ∧
    (∃ v, (∀ j < 32, v.getLsbD j = ((s.rd rb).getLsbD j || (s.rd ra).getLsbD j)) ∧
      Writes (.or rb ra) s rb v nzParts (fun t => t.cpu.SignOf v))

/-- 43_shift_logical_field.md R274, R275: the shifts by 1 to 31; V and the carries are kept, ShR clears
N. -/
def Obligations.ShiftResults : Prop :=
  ∀ (r : Reg) (amt : Fin 32) (s : State), amt ≠ 0 →
    (∃ v, (∀ j < 32, v.getLsbD j = (decide (amt.val ≤ j) && (s.rd r).getLsbD (j - amt.val))) ∧
      Writes (.shL r amt) s r v nzParts (fun t => t.cpu.SignOf v)) ∧
    (∃ v, (∀ j < 32, v.getLsbD j = (s.rd r).getLsbD (j + amt.val)) ∧
      Writes (.shR r amt) s r v nzParts
        (fun t => t.cpu.flagN = false ∧ (t.cpu.flagZ = true ↔ v = 0)))

/-- 43_shift_logical_field.md R269, R270: the two Msk forms define a field of the length given, cut at bit
31, from the position given, a register's modulo 32. -/
def Obligations.MaskDefinitions : Prop :=
  (∀ (pos : Fin 32) (len : Nat) (s : State), (Instr.mskI pos len).wf = true →
    Completes (.mskI pos len) s [.mask]
      (fun t => ∃ l : Fin 32, l.val = min 31 (pos.val + len - 1) ∧ t.cpu.mask.field? = some (pos, l))) ∧
  (∀ (ra : Reg) (len : Nat) (s : State), (Instr.mskR ra len).wf = true →
    Completes (.mskR ra len) s [.mask]
      (fun t => ∃ p l : Fin 32, p.val = (s.rd ra).toNat % 32 ∧ l.val = min 31 (p.val + len - 1) ∧
        t.cpu.mask.field? = some (p, l)))

/-- 43_shift_logical_field.md R260, R263 to R268, R273, 42_compare_branch.md R241: the field instructions and
TstF under a legal field definition, bit by bit. -/
def Obligations.FieldInstructions : Prop :=
  (∀ (rb ra : Reg) (s : State) (p l : Fin 32), s.cpu.mask.field? = some (p, l) →
    (∃ v, (∀ j < 32, v.getLsbD j =
        if p.val ≤ j ∧ j ≤ l.val then false else (s.rd ra).getLsbD j) ∧
      Writes (.clrF ra) s ra v [] (fun _ => True)) ∧
    (∃ v, (∀ j < 32, v.getLsbD j =
        if p.val ≤ j ∧ j ≤ l.val then true else (s.rd ra).getLsbD j) ∧
      Writes (.setF ra) s ra v [] (fun _ => True)) ∧
    (∃ v, (∀ j < 32, v.getLsbD j =
        if p.val ≤ j ∧ j ≤ l.val then (s.rd rb).getLsbD (j - p.val) else false) ∧
      WritesNZ (.dep rb ra) s ra v) ∧
    (∃ v, (∀ j < 32, v.getLsbD j =
        if p.val ≤ j ∧ j ≤ l.val then (s.rd rb).getLsbD (j - p.val) else (s.rd ra).getLsbD j) ∧
      WritesNZ (.ins rb ra) s ra v)) ∧
  (∀ (rb ra : Reg) (s : State) (p l : Fin 32), s.cpu.mask.field? = some (p, l) →
    (∃ v, (∀ j < 32, v.getLsbD j = (decide (j ≤ l.val - p.val) && (s.rd ra).getLsbD (j + p.val))) ∧
      WritesNZ (.extU rb ra) s rb v) ∧
    (∃ v, (∀ j < 32, v.getLsbD j = (s.rd ra).getLsbD (if j ≤ l.val - p.val then j + p.val else l.val)) ∧
      WritesNZ (.extS rb ra) s rb v) ∧
    (∃ v, (∀ j < 32, v.getLsbD j =
        if j + p.val < 32 then (s.rd ra).getLsbD (j + p.val) else (s.rd rb).getLsbD (j + p.val - 32)) ∧
      WritesNZ (.dSh rb ra) s ra v) ∧
    Completes (.tstF ra) s nzvParts (fun t =>
      t.cpu.flagN = (s.rd ra).getLsbD l.val ∧
      (t.cpu.flagZ = true ↔ ∀ j, p.val ≤ j → j ≤ l.val → (s.rd ra).getLsbD j = false) ∧
      t.cpu.flagV = false))

/-- L29, L32, L33, L34 (93_implementation_defined.md U1, U2, U7, U10): where the spec leaves a result undefined
the instruction still completes and changes nothing but what it may write: a shift by the undefined amount, a
field instruction under an illegal field definition (N and Z as open as the result), LdM and StM with RegA
inside the run (StM changes no byte outside the words below RegA's first contents), and S7, S8, S9 or S14
accessed while traps or external interrupts are enabled. -/
def Obligations.UndefinedResultsComplete : Prop :=
  (∀ (r : Reg) (s : State) (i : Instr), i = .shL r 0 ∨ i = .shR r 0 →
    ∃ t, exec i s = .next t ∧ Advances s t ∧
      Unchanged s t (stepParts ++ [.reg r] ++ nzParts)) ∧
  (∀ (rb ra : Reg) (s : State), s.cpu.mask.field? = none →
    (∀ i : Instr, i = .clrF ra ∨ i = .setF ra →
      ∃ t, exec i s = .next t ∧ Advances s t ∧ Unchanged s t (stepParts ++ [.reg ra])) ∧
    (∀ (i : Instr) (d : Reg), (i = .dep rb ra ∧ d = ra) ∨ (i = .ins rb ra ∧ d = ra) ∨
        (i = .dSh rb ra ∧ d = ra) ∨ (i = .extU rb ra ∧ d = rb) ∨ (i = .extS rb ra ∧ d = rb) →
      ∃ t, exec i s = .next t ∧ t.cpu.flagV = false ∧ Advances s t ∧
        Unchanged s t (stepParts ++ [.reg d] ++ nzvParts)) ∧
    Completes (.tstF ra) s nzvParts (fun t => t.cpu.flagV = false)) ∧
  (∀ (s : State) (rb ra : Reg), runOverlaps rb ra = true → s.IdentityMap → memoryWf s.mem → s.NoStale →
    (∃ t, exec (.ldM rb ra) s = .next t ∧ Advances s (t.transfers (rb.val - 1)) ∧
      Unchanged s (t.transfers (rb.val - 1)) (stepParts ++ [.dataCache] ++ runParts rb.val ++ countParts)) ∧
    (∃ t, exec (.stM rb ra) s = .next t ∧ Advances s (t.transfers (rb.val - 1)) ∧
      (∀ a, (∀ k < rb.val,
          let w := (byteOfWord (wordAddress (s.rd ra - BitVec.ofNat 32 rb.val) k)).toNat
          ¬(w ≤ a ∧ a < w + 4)) →
        readByte (t.transfers (rb.val - 1)).mem a = readByte s.mem a) ∧
      (∀ h, (∀ k < rb.val,
          let w := byteOfWord (wordAddress (s.rd ra - BitVec.ofNat 32 rb.val) k)
          h ≠ w ∧ h ≠ w + 2) →
        (t.transfers (rb.val - 1)).storedHalf h = s.storedHalf h) ∧
      Unchanged s (t.transfers (rb.val - 1))
        (stepParts ++ [.memory, .dataCache, .stored] ++ runParts rb.val ++ countParts))) ∧
  (∀ (s : State) (rb : Reg), s.cpu.flagU = false →
    (s.cpu.flagT = true →
      (∀ sp : SReg, sp.field.val ∈ [7, 8, 9] → ∃ v, Writes (.movFS rb sp) s rb v [] (fun _ => True)) ∧
      Completes (.movTS rb .trapArgument) s [.trapArg] (fun _ => True) ∧
      Completes (.movTS rb .statusSave) s [.statusSave] (fun _ => True) ∧
      Completes (.movTS rb .pcSaveQueue) s [.queue] (fun _ => True)) ∧
    (s.s14.getLsbD 31 = true →
      (∃ v, Writes (.movFS rb .interruptArgument) s rb v [] (fun _ => True)) ∧
      Completes (.movTS rb .interruptArgument) s [.interruptArgument] (fun t =>
        t.s14.getLsbD 31 = (s.rd rb).getLsbD 31 ∧
        t.s14.getLsbD 30 = (s.s14.getLsbD 30 && (s.rd rb).getLsbD 30))))

/-! ### Loads and stores -/

/-- 40_load_store_move.md R166, R167, R168, R172, 20_memory.md R81, R85, R90: a word load whose page allows
it loads the word at its word address through the data cache (R101, 44_cache_control.md R300); LdWE, rightly
placed, moves past its two halfwords; a direct load beyond the semaphores waits for none. -/
def Obligations.WordLoads : Prop :=
  ∀ (s : State) (rb ra : Reg) (base : Fin 4) (disp : Nat) (i : Instr) (wa : WAddr) (d : PageDesc),
    (i = .ldWB rb base disp ∧ wa.toNat = ((s.rd (Fin.castLE (by decide) base)).toNat + disp) % 2 ^ 30) ∨
      (i = .ldWR rb ra ∧ wa.toNat = (s.rd ra).toNat % 2 ^ 30) ∨
      (i = .ldWE rb ra disp ∧ s.cpu.misplaced = false ∧
        wa.toNat = ((s.rd ra).toNat + disp) % 2 ^ 30) ∨
      (i = .ldWD rb disp ∧ 8 ≤ disp ∧
        wa.toNat = ((s.window s.cpu.flagCN).toNat + disp) % 2 ^ 30) →
    memoryWf s.mem → s.Allows (byteOfWord wa) .load d →
    ∃ t, exec i s = .next t ∧ Loads s t rb wa d [] ∧
      (if i.form.extended then AdvancesExtended s t else Advances s t)

/-- 40_load_store_move.md R176, R177, R178, R179, 20_memory.md R81, R86, R90: a word store whose page
allows it changes the four bytes of its word, in the data cache, whose line is then modified (R101,
44_cache_control.md R300), and no register. -/
def Obligations.WordStores : Prop :=
  ∀ (s : State) (rb ra : Reg) (base : Fin 4) (disp : Nat) (i : Instr) (wa : WAddr) (d : PageDesc),
    (i = .stWB rb base disp ∧ wa.toNat = ((s.rd (Fin.castLE (by decide) base)).toNat + disp) % 2 ^ 30) ∨
      (i = .stWR rb ra ∧ wa.toNat = (s.rd ra).toNat % 2 ^ 30) ∨
      (i = .stWE rb ra disp ∧ s.cpu.misplaced = false ∧
        wa.toNat = ((s.rd ra).toNat + disp) % 2 ^ 30) ∨
      (i = .stWD rb disp ∧ 8 ≤ disp ∧
        wa.toNat = ((s.window s.cpu.flagCN).toNat + disp) % 2 ^ 30) →
    memoryWf s.mem → s.Allows (byteOfWord wa) .store d →
    ∃ t, exec i s = .next t ∧ Stores s t wa (s.rd rb) d [] ∧
      (if i.form.extended then AdvancesExtended s t else Advances s t)

/-- 20_memory.md R91, R92, 40_load_store_move.md R167, R177: at direct addresses 0 to 7 a load waits for
its cluster's semaphore bit to be set and clears it, a store waits for it to be clear and sets it; while it
waits the PU is frozen at the instruction and nothing else changes, and once the bit is in the awaited
state, whoever changed it, the PU is frozen no more (10_state.md R71). -/
def Obligations.SemaphoreAccesses : Prop :=
  ∀ (s : State) (rb : Reg) (disp : Nat) (wa : WAddr) (d : PageDesc), disp ≤ 7 →
    wa.toNat = ((s.window s.cpu.flagCN).toNat + disp) % 2 ^ 30 →
    (s.sem s.cpu.flagCN disp = false → ∃ t, exec (.ldWD rb disp) s = .next t ∧
      t.event = .waiting ∧ t.frozen s.turn = true ∧ Unchanged s t [.waitSem] ∧
      ∀ u : State, (u.pu s.turn).waitSem = t.cpu.waitSem → u.sem s.cpu.flagCN disp = true →
        u.frozen s.turn = false) ∧
    (s.sem s.cpu.flagCN disp = true → ∃ t, exec (.stWD rb disp) s = .next t ∧
      t.event = .waiting ∧ t.frozen s.turn = true ∧ Unchanged s t [.waitSem] ∧
      ∀ u : State, (u.pu s.turn).waitSem = t.cpu.waitSem → u.sem s.cpu.flagCN disp = false →
        u.frozen s.turn = false) ∧
    (memoryWf s.mem → s.sem s.cpu.flagCN disp = true → s.Allows (byteOfWord wa) .load d →
      ∃ t, exec (.ldWD rb disp) s = .next t ∧ Loads s t rb wa d [.semaphores] ∧ Advances s t ∧
        ∀ cn k, k < 8 → t.sem cn k =
          if cn = s.cpu.flagCN ∧ k = disp then false else s.sem cn k) ∧
    (memoryWf s.mem → s.sem s.cpu.flagCN disp = false → s.Allows (byteOfWord wa) .store d →
      ∃ t, exec (.stWD rb disp) s = .next t ∧ Stores s t wa (s.rd rb) d [.semaphores] ∧ Advances s t ∧
        ∀ cn k, k < 8 → t.sem cn k =
          if cn = s.cpu.flagCN ∧ k = disp then true else s.sem cn k)

/-- 20_memory.md R82, whose carry from the byte number into the word address is the spec's own inference
("[derived]"): the next byte pointer names the next byte address, modulo 2^32, and every byte address has
one pointer. -/
def Obligations.BytePointerStep : Prop :=
  (∀ p : Word, (byteOfPointer p).toNat = 4 * (p.toNat % 2 ^ 30) + p.toNat / 2 ^ 30) ∧
  (∀ p : Word, (byteOfPointer (nextBytePtr p)).toNat = ((byteOfPointer p).toNat + 1) % 2 ^ 32) ∧
  (∀ va : VAddr, byteOfPointer (pointerTo va) = va)

/-- 40_load_store_move.md R163, R174: LdB and StB move the byte their pointer names and step the pointer;
a load into the pointer register leaves the byte there. That a StB marks its whole word stored, in a line made
by CDC, is the model's choice (L42). -/
def Obligations.ByteAccesses : Prop :=
  ∀ (s : State) (d p : Reg) (pg : PageDesc), memoryWf s.mem →
    let va := byteOfPointer (s.rd p)
    let pa := pageAddress pg va
    (s.Allows va .load pg → ∃ t, exec (.ldB d p) s = .next t ∧
      (t.cpu.reg d).toNat = (readByte (s.memoryAfter pa) pa.toNat).toNat ∧
      (d ≠ p → t.cpu.reg p = nextBytePtr (s.rd p)) ∧ Advances s t ∧
      Unchanged s t (stepParts ++ accessParts ++ [.memory, .reg d, .reg p]) ∧ CacheAfter s t pa pg false ∧
      ∀ a, ¬s.Discards pa a → readByte t.mem a = readByte s.mem a) ∧
    (s.Allows va .store pg → ∃ t, exec (.stB d p) s = .next t ∧
      readByte t.mem pa.toNat = (s.rd d).setWidth 8 ∧ t.cpu.reg p = nextBytePtr (s.rd p) ∧
      Advances s t ∧ Unchanged s t (stepParts ++ accessParts ++ [.memory, .stored, .reg p]) ∧
      CacheAfter s t pa pg true ∧ RecordsStores s t [halfBase pa] ∧
      ∀ a, a ≠ pa.toNat → ¬s.Discards pa a → readByte t.mem a = readByte s.mem a)

/-- 40_load_store_move.md R165, R175, 20_memory.md R89: LdM loads R1 to RegB from the words at RegA on and leaves
RegA past them. StM stores RegB down to R1 below RegA, R1 lowest, and leaves RegA at the last word stored
and RCnt at 1. Both move one word at a time, R_RegB first: after the first of several the PU stands at its
instruction in a run, nothing but that word, RCnt and, for StM, RegA changed. The pages stand in the TLB,
and map StM's words apart; no cached line is stale; RegA is not in the run. -/
def Obligations.MultipleRuns : Prop :=
  (∀ (s : State) (rb ra : Reg) (pg : Nat → PageDesc), rb ≠ 0 → runOverlaps rb ra = false →
    memoryWf s.mem → s.NoStale →
    let word := fun k => readWord s.params.byteOrder s.mem
      (pageAddress (pg k) (byteOfWord (wordAddress (s.rd ra) k))).toNat
    (∀ k < rb.val, s.Hits (byteOfWord (wordAddress (s.rd ra) k)) .load (pg k)) →
    ∃ t, exec (.ldM rb ra) s = .next t ∧
      (2 ≤ rb.val → t.cpu.run = some (.move ⟨true, rb, ra, s.rd ra, regOf (rb.val - 1)⟩) ∧ t.event = .waiting ∧
        t.cpu.reg rb = word (rb.val - 1) ∧
        Unchanged s t ([.run, .dataCache, .reg rb] ++ countParts)) ∧
      let u := t.transfers (rb.val - 1)
      (∀ k < rb.val, u.cpu.reg (regOf (k + 1)) = word k) ∧
      u.cpu.reg ra = s.rd ra + BitVec.ofNat 32 rb.val ∧ Advances s u ∧
      Unchanged s u (stepParts ++ [.dataCache, .reg ra] ++ runParts rb.val ++ countParts)) ∧
  (∀ (s : State) (rb ra : Reg) (pg : Nat → PageDesc), rb ≠ 0 → runOverlaps rb ra = false →
    memoryWf s.mem → s.NoStale →
    let low := s.rd ra - BitVec.ofNat 32 rb.val
    let pa := fun k => pageAddress (pg k) (byteOfWord (wordAddress low k))
    let at_ := fun k => (pa k).toNat
    (∀ k < rb.val, s.Hits (byteOfWord (wordAddress low k)) .store (pg k)) →
    (∀ j < rb.val, ∀ k < rb.val, j ≠ k → at_ j ≠ at_ k) →
    ∃ t, exec (.stM rb ra) s = .next t ∧
      (2 ≤ rb.val → t.cpu.run = some (.move ⟨false, rb, ra, s.rd ra, regOf (rb.val - 1)⟩) ∧ t.event = .waiting ∧
        readWord s.params.byteOrder t.mem (at_ (rb.val - 1)) = s.rd rb ∧ t.cpu.reg ra = s.rd ra - 1 ∧
        (∀ a, ¬(at_ (rb.val - 1) ≤ a ∧ a < at_ (rb.val - 1) + 4) →
          readByte t.mem a = readByte s.mem a) ∧
        RecordsStores s t [pa (rb.val - 1), pa (rb.val - 1) + 2] ∧
        Unchanged s t ([.run, .memory, .dataCache, .stored, .reg ra] ++ countParts)) ∧
      let u := t.transfers (rb.val - 1)
      (∀ k < rb.val, readWord s.params.byteOrder u.mem (at_ k) = s.rd (regOf (k + 1))) ∧
      (∀ a, (∀ k < rb.val, ¬(at_ k ≤ a ∧ a < at_ k + 4)) → readByte u.mem a = readByte s.mem a) ∧
      (∀ k < rb.val, ∀ h, h = pa k ∨ h = pa k + 2 →
        ∃ r, u.storedHalf h = some r ∧ r.written = false ∧ u.halfIn h ∈ r.values) ∧
      (∀ h, (∀ k < rb.val, h ≠ pa k ∧ h ≠ pa k + 2) → u.storedHalf h = s.storedHalf h) ∧
      u.cpu.reg ra = low ∧ u.cpu.sscr.extractLsb' 28 4 = 1 ∧ Advances s u ∧
      Unchanged s u (stepParts ++ [.memory, .dataCache, .stored, .reg ra] ++ countParts))

/-- 40_load_store_move.md R165, R175: StM followed by LdM, each with all its transfers, restores every
register, RegA with them. -/
def Obligations.StoreLoadMultipleInverse : Prop :=
  ∀ (s : State) (rb ra : Reg), rb ≠ 0 → runOverlaps rb ra = false → memoryWf s.mem → s.NoStale →
    s.IdentityMap → (∀ r, s.cpu.busy (.gpr r) = false) →
    ∃ t u, exec (.stM rb ra) s = .next t ∧
      exec (.ldM rb ra) (t.transfers (rb.val - 1)) = .next u ∧
      (∀ r, (u.transfers (rb.val - 1)).cpu.reg r = s.cpu.reg r) ∧
      Unchanged s (u.transfers (rb.val - 1)) (stepParts ++ [.memory, .dataCache, .stored] ++ countParts)

/-- 20_memory.md R85, R86, R101: a load from the word just stored, by any register and through the data
cache, loads what was stored. -/
def Obligations.LoadSeesStore : Prop :=
  ∀ (s t u : State) (rb ra rc : Reg) (d : PageDesc), memoryWf s.mem →
    s.Allows (byteOfWord (wordAddress (s.rd ra) 0)) .store d →
    s.Allows (byteOfWord (wordAddress (s.rd ra) 0)) .load d →
    exec (.stWR rb ra) s = .next t → exec (.ldWR rc ra) t = .next u → u.cpu.reg rc = s.rd rb

/-- 20_memory.md R96, R101, 60_exceptions.md R356, R357: a word access to an absent or protected page, or by a
user to a line cached as the system's, takes trap 0x13 or 0x15 with its address in Trap Argument; no register,
semaphore or byte of memory changes. -/
def Obligations.WordFaults : Prop :=
  ∀ (s : State) (rb ra : Reg) (base : Fin 4) (disp n : Nat) (i : Instr) (wa : WAddr) (k : AccessKind),
    (k = .load ∧ (i = .ldWB rb base disp ∧ wa = wordAddress (s.rd (baseReg base)) disp ∨
      i = .ldWR rb ra ∧ wa = wordAddress (s.rd ra) 0 ∨
      i = .ldWE rb ra disp ∧ s.cpu.misplaced = false ∧ wa = wordAddress (s.rd ra) disp ∨
      i = .ldWD rb disp ∧ wa = s.directWA disp ∧ (disp ≤ 7 → s.sem s.cpu.flagCN disp = true))) ∨
    (k = .store ∧ (i = .stWB rb base disp ∧ wa = wordAddress (s.rd (baseReg base)) disp ∨
      i = .stWR rb ra ∧ wa = wordAddress (s.rd ra) 0 ∨
      i = .stWE rb ra disp ∧ s.cpu.misplaced = false ∧ wa = wordAddress (s.rd ra) disp ∨
      i = .stWD rb disp ∧ wa = s.directWA disp ∧ (disp ≤ 7 → s.sem s.cpu.flagCN disp = false))) →
    s.DataFaultIs (byteOfWord wa) k n →
    FaultsWith i s n (BitVec.ofNat 32 wa.toNat) []

/-- 40_load_store_move.md R163, R165, R174, R175, 60_exceptions.md R356, R357: a byte access that faults has
stepped its pointer and changed nothing else. A run that faults at R_k, its first word or a later one, keeps
what it has moved: RCnt in the saved status is k or, U11, k + 1 (in four bits, L29); StM's RegA has been
decremented for each attempted store; LdM's is as it was or, at R1, its first or its final value. -/
def Obligations.ByteAndRunFaults : Prop :=
  (∀ (s : State) (d p : Reg) (n : Nat) (i : Instr) (k : AccessKind),
    (k = .load ∧ i = .ldB d p) ∨ (k = .store ∧ i = .stB d p) →
    s.DataFaultIs (byteOfPointer (s.rd p)) k n →
    FaultsWith i s n (s.rd p) [.reg p] ∧
      ∀ t, exec i s = .next t → t.cpu.reg p = nextBytePtr (s.rd p)) ∧
  (∀ (s : State) (x : Transfer) (n : Nat) (wa : WAddr),
    1 ≤ x.next.val → x.next ≤ x.count → runOverlaps x.count x.addr = false → s.cpu.flagT = true →
    (x.load = true → wa = wordAddress x.base (x.next.val - 1)) →
    (x.load = false → wa = addressOf (x.base - BitVec.ofNat 32 (x.count.val + 1 - x.next.val))) →
    s.DataFaultIs (byteOfWord wa) (if x.load then .load else .store) n →
    ∃ t, (x.next = x.count → x.base = s.rd x.addr →
        exec (if x.load then .ldM x.count x.addr else .stM x.count x.addr) s = .next t) ∧
      (s.cpu.run = some (.move x) → s.continueRun = t) ∧
      t.AtEntry s.turn n ∧ t.cpu.trapArg = BitVec.ofNat 32 wa.toNat ∧
      t.cpu.qHead = s.cpu.pc ∧ t.cpu.qTail = s.cpu.npc ∧
      t.cpu.statusSave.extractLsb' 0 28 = s.cpu.sscr.extractLsb' 0 28 ∧
      (t.cpu.statusSave.extractLsb' 28 4 = BitVec.ofNat 4 x.next.val ∨
        t.cpu.statusSave.extractLsb' 28 4 = BitVec.ofNat 4 (x.next.val + 1)) ∧
      (x.load = false →
        t.cpu.reg x.addr = x.base - BitVec.ofNat 32 (x.count.val + 1 - x.next.val)) ∧
      (x.load = true → x.next.val ≠ 1 → t.cpu.reg x.addr = s.cpu.reg x.addr) ∧
      (x.load = true → x.next.val = 1 → t.cpu.reg x.addr = x.base ∨
        t.cpu.reg x.addr = x.base + BitVec.ofNat 32 x.count.val) ∧
      Unchanged s t (entryParts ++ [.trapArg, .reg x.addr]))

/-- L44 (20_memory.md R87, R95, R96, R103): an access to a page marked "message", by a word load or store of
any form, by LdB or StB, by a transfer of LdM or StM or by a fetch, either takes Node Busy, with its address
in Trap Argument, or completes, a load or fetch then with an open value; this node's memory keeps every byte.
The halfword fetched is the open value the model draws for its address, and the step is what it decodes to.
What the instruction does beside the access, a stepped pointer or a semaphore, is done as otherwise. -/
def Obligations.RemoteAccesses : Prop :=
  (∀ (s : State) (rb : Reg) (i : Instr) (k : AccessKind) (wa : WAddr),
    WordAccess i s k rb wa → s.Remote (byteOfWord wa) k →
    FaultsWith i s 0x11 (BitVec.ofNat 32 wa.toNat) [] ∨
      ∃ t, exec i s = .next t ∧ (if i.form.extended then AdvancesExtended s t else Advances s t) ∧
        (∀ cn j, j < 8 → t.sem cn j = if cn = s.cpu.flagCN ∧ (i = .ldWD rb j ∨ i = .stWD rb j)
          then decide (k = .store) else s.sem cn j) ∧
        Unchanged s t (stepParts ++ [.tlb, .semaphores] ++ (if k = .load then [.reg rb] else []))) ∧
  (∀ (s : State) (d p : Reg) (i : Instr) (k : AccessKind),
    (k = .load ∧ i = .ldB d p) ∨ (k = .store ∧ i = .stB d p) →
    s.Remote (byteOfPointer (s.rd p)) k →
    (FaultsWith i s 0x11 (s.rd p) [.reg p] ∧
        ∀ t, exec i s = .next t → t.cpu.reg p = nextBytePtr (s.rd p)) ∨
      ∃ t, exec i s = .next t ∧ Advances s t ∧
        (k = .load → (t.cpu.reg d).toNat < 256) ∧
        (k = .store ∨ d ≠ p → t.cpu.reg p = nextBytePtr (s.rd p)) ∧
        Unchanged s t (stepParts ++ [.tlb, .reg p] ++ (if k = .load then [.reg d] else []))) ∧
  (∀ (s : State) (x : Transfer) (wa : WAddr),
    1 ≤ x.next.val → x.next ≤ x.count → runOverlaps x.count x.addr = false →
    (x.load = true → wa = wordAddress x.base (x.next.val - 1)) →
    (x.load = false → wa = addressOf (x.base - BitVec.ofNat 32 (x.count.val + 1 - x.next.val))) →
    s.Remote (byteOfWord wa) (if x.load then .load else .store) →
    let t := s.transferOne x
    (t.AtEntry s.turn (if s.cpu.flagT then 0x11 else 0x1E) ∧
        (s.cpu.flagT = true → t.cpu.trapArg = BitVec.ofNat 32 wa.toNat) ∧
        Unchanged s t (entryParts ++ [.trapArg, .reg x.addr])) ∨
      ((1 < x.next.val → t.event = .waiting ∧
          t.cpu.run = some (.move { x with next := regOf (x.next.val - 1) }) ∧
          t.cpu.pc = s.cpu.pc ∧ t.cpu.npc = s.cpu.npc) ∧
        (x.next.val = 1 → Advances s t) ∧
        (x.load = false → t.cpu.reg x.addr = x.base - BitVec.ofNat 32 (x.count.val + 1 - x.next.val)) ∧
        Unchanged s t (stepParts ++ [.tlb, .reg x.addr] ++ countParts ++
          (if x.load then [.reg x.next] else [])))) ∧
  (∀ s : State,
    let s0 := s.beginStep
    let va := byteOfHalf s0.cpu.pc
    let vb := byteOfHalf (pcAdd s0.cpu.pc 1)
    let answer := fun (v : VAddr) => ((Config.freeWord s0.tick (tagAt 9 v)).extractLsb' 0 16 : Half)
    let busy := fun (v : VAddr) (half : Bool) => ∃ t, step s = .next (t.finishStep s0.cpu.flagU) ∧
      t.AtEntry s0.turn (if s0.cpu.flagT then 0x11 else 0x1E) ∧
      (s0.cpu.flagT = true → t.cpu.trapArg = pointerTo v ∧ t.cpu.qHead = s0.cpu.pc ∧
        t.cpu.qTail = s0.cpu.npc ∧ t.cpu.statusSave.getLsbD 26 = half) ∧
      Unchanged s0 t (entryParts ++ [.trapArg])
    let holds := fun (r : Rest) => ∃ t, step s = .next (t.finishStep s0.cpu.flagU) ∧ t.event = .waiting ∧
      t.cpu.run = some r ∧ Unchanged s0 t [.run, .tlb]
    s0.accepted = none → s0.cpu.flagW = false → s0.cpu.flagS = false → s0.frozen s0.turn = false →
    (s0.cpu.run = none → s0.Remote va .fetch → busy va false ∨
      ((∀ i rest, decode s0.params.opcodes [answer va] = .ok (i, rest) →
          ((s0.cpu.rti1 = true → i = .rtI) → step s = ended (exec i (s0.fillTlb va)) s0.cpu.flagU) ∧
          (s0.cpu.rti1 = true → i ≠ .rtI → step s = .refused .rtiPairBroken)) ∧
        (∀ x, decode s0.params.opcodes [answer va] = .error (.illegalOpcode x) →
          (s0.cpu.rti1 = false → ∃ t, step s = .next (t.finishStep s0.cpu.flagU) ∧
            t.AtEntry s0.turn (if s0.cpu.flagT then 0x16 else 0x1E) ∧
            (s0.cpu.flagT = true → t.Saved s0.turn s0.cpu.sscr s0.cpu.pc s0.cpu.npc) ∧
            Unchanged s0 t (entryParts ++ [.tlb])) ∧
          (s0.cpu.rti1 = true → step s = .refused .rtiPairBroken)) ∧
        (decode s0.params.opcodes [answer va] = .error .truncated →
          (s0.cpu.rti1 = false → s0.cpu.misplaced = false → holds (.second (answer va))) ∧
          (s0.cpu.rti1 = false → s0.cpu.misplaced = true → step s = .refused .extendedAfterBranch) ∧
          (s0.cpu.rti1 = true → step s = .refused .rtiPairBroken)))) ∧
    (∀ w, s0.cpu.run = some (.second w) → s0.Remote vb .fetch → busy vb true ∨
      ∀ i rest, decode s0.params.opcodes [w, answer vb] = .ok (i, rest) → holds (.access i)))

/-! ### Special registers, mode bits, traps and returns -/

/-- 40_load_store_move.md R169, 10_state.md R50 to R64: what Mov to Special writes, for every register it
can name that the PU may (S4 apart: PrivilegeTraps); S7, S8 and S9 with traps disabled and S14 with EIE
clear, as R395 asks. Of S6 it writes the cluster's semaphores, and the window in cluster 1 only. -/
def Obligations.SpecialWrites : Prop :=
  ∀ (s : State) (rb : Reg),
    let may := fun (sp : SReg) => s.sregDenied sp = false
    let cn := s.cpu.flagCN
    (may .mask →
      Completes (.movTS rb .mask) s [.mask] (fun t => t.cpu.mask.bits = (s.rd rb).setWidth 15)) ∧
    (may .remainder → Completes (.movTS rb .remainder) s [.remainder, .status 2]
      (fun t => t.cpu.remainder = s.rd rb ∧ t.cpu.flagF = true)) ∧
    (may .product → Completes (.movTS rb .product) s [.product, .status 2]
      (fun t => t.cpu.product = s.rd rb ∧ t.cpu.flagF = true)) ∧
    (may .window → Completes (.movTS rb .window) s [.semaphores, .window] (fun t =>
      t.sems cn = s6Sems (s.rd rb) ∧ t.sems (!cn) = s.sems (!cn) ∧
      t.window1 = if cn then s6Window (s.rd rb) else s.window1)) ∧
    (s.cpu.flagT = false →
      (may .statusSave →
        Completes (.movTS rb .statusSave) s [.statusSave] (fun t => t.cpu.statusSave = s.rd rb)) ∧
      (may .trapArgument →
        Completes (.movTS rb .trapArgument) s [.trapArg] (fun t => t.cpu.trapArg = s.rd rb)) ∧
      (may .pcSaveQueue → Completes (.movTS rb .pcSaveQueue) s [.queue] (fun t =>
        t.cpu.qHead = s.cpu.qTail ∧ t.cpu.qTail = (s.rd rb).setWidth 30))) ∧
    (may .eventCounter1 → Completes (.movTS rb .eventCounter1) s [.eventCounters]
      (fun t => t.s10 = s.rd rb ∧ t.s11 = s.s11)) ∧
    (may .eventCounter2 → Completes (.movTS rb .eventCounter2) s [.eventCounters]
      (fun t => t.s11 = s.rd rb ∧ t.s10 = s.s10)) ∧
    (may .eventConfig → Completes (.movTS rb .eventConfig) s [.eventConfig] (fun t => ∀ j < 16,
      t.s12.getLsbD j = if j = 6 ∨ j = 14 then false else (s.rd rb).getLsbD j)) ∧
    (may .interruptArgument → s.s14.getLsbD 31 = false →
      Completes (.movTS rb .interruptArgument) s [.interruptArgument]
        (fun t => ∀ j < 32, t.s14.getLsbD j =
          if j = 31 then (s.rd rb).getLsbD 31
          else if j = 30 then (s.s14.getLsbD 30 && (s.rd rb).getLsbD 30) else s.s14.getLsbD j)) ∧
    (may .pageTableOrigin →
      Completes (.movTS rb .pageTableOrigin) s [.pageTable] (fun t => t.s15 = s.rd rb))

/-- 40_load_store_move.md R170, 10_state.md R50 to R64: what Mov from Special reads, for every register that
the PU may name; S7, S8 and S9 with traps disabled and S14 with EIE clear, as R395 asks, S1 and S2 open while
a result is pending in them (R398), and S4 left open (R54, L35). -/
def Obligations.SpecialReads : Prop :=
  ∀ (s : State) (rb : Reg),
    let reads := fun (sp : SReg) (v : Word) => Writes (.movFS rb sp) s rb v [] (fun _ => True)
    let may := fun (sp : SReg) => s.sregDenied sp = false
    (may .mask → reads .mask (s.cpu.mask.bits.setWidth 32)) ∧
    (may .remainder → (∃ v, reads .remainder v) ∧
      (s.cpu.busy .remainder = false → reads .remainder s.cpu.remainder)) ∧
    (may .product → (∃ v, reads .product v) ∧
      (s.cpu.busy .product = false → reads .product s.cpu.product)) ∧
    (may .puNumber → reads .puNumber (BitVec.ofNat 32 s.turn.number)) ∧
    (may .test → ∃ v, reads .test v) ∧
    (may .window → reads .window (s6Pack (s.windowBits s.cpu.flagCN) (s.sems s.cpu.flagCN))) ∧
    (s.cpu.flagT = false →
      (may .statusSave → reads .statusSave s.cpu.statusSave) ∧
      (may .trapArgument → reads .trapArgument s.cpu.trapArg) ∧
      (may .pcSaveQueue → reads .pcSaveQueue (s.cpu.qHead.setWidth 32))) ∧
    (may .eventCounter1 → reads .eventCounter1 s.s10) ∧
    (may .eventCounter2 → reads .eventCounter2 s.s11) ∧
    (may .eventConfig → reads .eventConfig (s.s12.setWidth 32)) ∧
    (may .globalStatus → ∃ v : Word, (∀ p : PuId, v.getLsbD (4 * p.number) = (s.pu p).flagU ∧
        v.getLsbD (4 * p.number + 1) = (s.pu p).flagT ∧
        v.getLsbD (4 * p.number + 2) = s.frozen p ∧
        v.getLsbD (4 * p.number + 3) = (s.pu p).flagW) ∧ v.toNat < 2 ^ 16 ∧
      reads .globalStatus v) ∧
    (may .interruptArgument → s.s14.getLsbD 31 = false → reads .interruptArgument s.s14) ∧
    (may .pageTableOrigin → reads .pageTableOrigin s.s15)

/-- 40_load_store_move.md R169, R170, 10_state.md R66, 60_exceptions.md R351, R360: a reserved special register,
a privileged one in user mode, and the privileged instructions in user mode raise trap 0x16 and do nothing
else. Which of S10 to S13 are privileged is the parameter PRIV_SREGS (D28), at reset all four (L24). A write
of S4 in system mode, whose effect the spec does not give (R54), is refused (L35). -/
def Obligations.PrivilegeTraps : Prop :=
  (∀ (s : State) (rb : Reg),
    (∀ sp : SReg, sp.field.val ∈ [3, 5, 13] → RaisesOnly (.movTS rb sp) s 0x16) ∧
    RaisesOnly (.movFS rb .reserved5) s 0x16 ∧
    (s.cpu.flagU = true → ∀ sp : SReg,
      sp.field.val ∈ [4, 7, 8, 9, 14, 15] ∨ sp ∈ s.params.privExtra →
      RaisesOnly (.movTS rb sp) s 0x16 ∧ RaisesOnly (.movFS rb sp) s 0x16) ∧
    (s.cpu.flagU = false → exec (.movTS rb .test) s = .refused .testRegisterWrite)) ∧
  (∀ m : BitVec 4, (State.resetWith m).params.privExtra.map (fun sp => sp.field.val) =
    [10, 11, 12, 13]) ∧
  (∀ (s : State) (i : Instr), s.cpu.flagU = true →
    i.form ∈ [Form.int, Form.res, Form.rtI, Form.itlb, Form.rdtx, Form.iicA] → RaisesOnly i s 0x16)

/-- 10_state.md R50, R56, 20_memory.md R90, 43_shift_logical_field.md R260: a field definition, and a
cluster's semaphores and window, read into a register and written back are what they were; Window[0] stays
the constant. -/
def Obligations.SavedViewsRestore : Prop :=
  (∀ (s t v w : State) (ra rb : Reg) (p l : Fin 32), s.cpu.mask.field? = some (p, l) →
    s.sregDenied .mask = false → v.sregDenied .mask = false →
    exec (.movFS ra .mask) s = .next t → v.rd rb = t.cpu.reg ra →
    exec (.movTS rb .mask) v = .next w → w.cpu.mask.field? = some (p, l)) ∧
  (∀ (s t v w : State) (ra rb : Reg), v.cpu.flagCN = s.cpu.flagCN →
    s.sregDenied .window = false → v.sregDenied .window = false →
    exec (.movFS ra .window) s = .next t → v.rd rb = t.cpu.reg ra →
    exec (.movTS rb .window) v = .next w →
      w.sems s.cpu.flagCN = s.sems s.cpu.flagCN ∧ w.window s.cpu.flagCN = s.window s.cpu.flagCN ∧
      w.window false = 0x3FF00000 ∧ w.sems (!s.cpu.flagCN) = v.sems (!s.cpu.flagCN) ∧
      Unchanged v w (stepParts ++ [.semaphores, .window]))

/-- 45_control.md R310, R316, R326, 42_compare_branch.md R242: SetM and ClrM write the SSCR bit they name
and nothing else; TstM puts Status_Save's bit, or SSCR's own while T is set, into C0 and clears C1 to C3; a
reserved bit, or a privileged one in user mode, raises trap 0x16. -/
def Obligations.ModeBits : Prop :=
  ∀ (s : State) (n : Fin 16),
    (n.val ∈ [0, 1, 2, 3, 4] ∨ (n.val ∈ [10, 11, 12, 13] ∧ s.cpu.flagU = false) →
      Completes (.setM n) s [.status (Fin.castLE (by decide) n)]
        (fun t => t.cpu.sscr.getLsbD n.val = true) ∧
      Completes (.clrM n) s [.status (Fin.castLE (by decide) n)]
        (fun t => t.cpu.sscr.getLsbD n.val = false) ∧
      Completes (.tstM n) s carryParts (fun t =>
        t.cpu.carry 0 = (if s.cpu.flagT then s.cpu.sscr else s.cpu.statusSave).getLsbD n.val ∧
        t.cpu.carry 1 = false ∧ t.cpu.carry 2 = false ∧ t.cpu.carry 3 = false)) ∧
    (n.val ∈ [5, 6, 7, 8, 9, 14, 15] ∨ (8 ≤ n.val ∧ s.cpu.flagU = true) →
      RaisesOnly (.setM n) s 0x16 ∧ RaisesOnly (.clrM n) s 0x16 ∧ RaisesOnly (.tstM n) s 0x16)

/-- 45_control.md R322, R330, 60_exceptions.md R344, R352, R353: with traps enabled Trap n enters vector n with
the saved pair after it, with traps disabled Machine Check is entered. In system mode with traps disabled
the first RtI, not in a shadow nor after a branch or skip, transfers to the queue's head and advances the
queue; the second transfers to the new head and restores SSCR from Status_Save with W clear. That neither an
entry nor a return keeps the mark of a preceding branch is the model's choice (L28). -/
def Obligations.TrapAndReturnInstructions : Prop :=
  (∀ (s : State) (num : Fin 16), ∃ t, exec (.trap num) s = .next t ∧ Unchanged s t entryParts ∧
    (if s.cpu.flagT then
      t.AtEntry s.turn num.val ∧ t.Saved s.turn s.cpu.sscr s.cpu.npc (pcAdd s.cpu.npc 1)
     else t.AtEntry s.turn 0x1E)) ∧
  (∀ s : State, s.cpu.flagU = false → s.cpu.flagT = false →
    (s.cpu.rti1 = false → s.cpu.misplaced = false → ∃ t, exec .rtI s = .next t ∧
      Returns s t s.cpu.qHead ∧ t.cpu.qHead = s.cpu.qTail ∧ t.cpu.qTail = s.cpu.qTail ∧
      t.cpu.rti1 = true ∧ Unchanged s t (stepParts ++ [.queue, .returnMark])) ∧
    (s.cpu.rti1 = true → ∃ t, exec .rtI s = .next t ∧ Returns s t s.cpu.qHead ∧
      t.cpu.rti1 = false ∧ t.cpu.flagW = false ∧
      (∀ j < 32, j ≠ 25 → t.cpu.sscr.getLsbD j = s.cpu.statusSave.getLsbD j) ∧
      Unchanged s t (stepParts ++ [.returnMark] ++ (List.finRange 32).map Part.status)))

/-- 60_exceptions.md R352, R354, 45_control.md R322, R330: from the entry that a Trap or an interrupt other
than Reset makes with traps enabled, the RtI pair leads back to the saved program counters with SSCR
restored, W clear, and everything else as it was but the saved context, the marks an entry clears (L28), and
the cause or enable of the interrupt taken. -/
def Obligations.EntryThenReturnRestores : Prop :=
  ∀ (s e : State) (saved : HAddr × HAddr), s.cpu.flagT = true →
    (∃ num, exec (.trap num) s = .next e ∧ saved = (s.cpu.npc, pcAdd s.cpu.npc 1)) ∨
      (∃ n, s.accepted = some n ∧ n ≠ 0x1F ∧ e = s.takeInterrupt n ∧ saved = (s.cpu.pc, s.cpu.npc)) →
    ∃ t u, exec .rtI e = .next t ∧ exec .rtI t = .next u ∧
      u.cpu.pc = saved.1 ∧ u.cpu.npc = saved.2 ∧ u.cpu.flagW = false ∧
      (∀ j < 32, j ≠ 25 → u.cpu.sscr.getLsbD j = s.cpu.sscr.getLsbD j) ∧
      (∀ r, u.cpu.reg r = s.cpu.reg r) ∧
      Unchanged s u
        (entryParts ++ [.pendInter, .pendRestart, .eventConfig, .interruptArgument, .pending])

/-- What the spec leaves undefined and asks a model to refuse (93_implementation_defined.md U3, U4, U8, U13;
70_reset_and_hazards.md R393, R394, 40_load_store_move.md R165, R172, R175, R179): LdWE or StWE in a shadow or
after a branch or skip, LdM or StM with RegB = 0, RtI with traps enabled, a first RtI in a shadow or after a
branch or skip (after an untaken Bcc by the model's choice, L28), a first RtI followed by anything else, a LdWE
or StWE among it, Strt naming its issuer. The refusals of a misplaced or pair-breaking LdWE or StWE come before
its second fetch. -/
def Obligations.UndefinedUsesAreRefused : Prop :=
  (∀ (s : State) (rb ra : Reg) (d : Nat) (m : BitVec 4),
    (s.cpu.misplaced = true → exec (.ldWE rb ra d) s = .refused .extendedAfterBranch ∧
      exec (.stWE rb ra d) s = .refused .extendedAfterBranch) ∧
    (s.cpu.misplaced = true ↔ s.cpu.afterBranch = true ∨ s.cpu.npc ≠ pcAdd s.cpu.pc 1) ∧
    (exec (.ldM 0 ra) s = .refused .emptyRegisterRun ∧
      exec (.stM 0 ra) s = .refused .emptyRegisterRun) ∧
    (s.cpu.flagU = false → s.cpu.flagT = true → exec .rtI s = .refused .rtiWithTrapsEnabled) ∧
    (s.cpu.flagU = false → s.cpu.flagT = false → s.cpu.rti1 = false → s.cpu.misplaced = true →
      exec .rtI s = .refused .rtiAfterBranch) ∧
    (m.getLsbD s.turn.number = true → exec (.strt rb m) s = .refused .strtNamesItself)) ∧
  (∀ (s : State) (d : PageDesc),
    let s0 := s.beginStep
    let va := byteOfHalf s0.cpu.pc
    let decoded := decode s0.params.opcodes [s0.halfIn (pageAddress d va)]
    s0.accepted = none → s0.cpu.run = none → s0.cpu.flagW = false → s0.cpu.flagS = false →
    s0.frozen s0.turn = false → s0.Allows va .fetch d → s0.Coherent (pageAddress d va) →
    (s0.cpu.rti1 = true → (∃ i, i ≠ .rtI ∧ decoded = .ok (i, [])) ∨ decoded = .error .truncated →
      step s = .refused .rtiPairBroken) ∧
    (s0.cpu.rti1 = false → s0.cpu.misplaced = true → decoded = .error .truncated →
      step s = .refused .extendedAfterBranch))

/-! ### Inter-PU instructions, translation and tags -/

/-- 45_control.md R311, R314, R315: in system mode Res makes the Restart interrupt pending at every PU its
mask names; Int does the same with the Inter-PU interrupt once all of them have traps enabled, and until
then stays at its instruction with no effect. -/
def Obligations.InterruptingInstructions : Prop :=
  ∀ (s : State) (m : BitVec 4), s.cpu.flagU = false →
    (∃ t, exec (.res m) s = .next t ∧ Advances s t ∧
      (∀ p, (t.pu p).pendRestart = (m.getLsbD p.number || (s.pu p).pendRestart)) ∧
      (∀ p, p ≠ s.turn → ({ t.pu p with pendRestart := (s.pu p).pendRestart } : PU) = s.pu p) ∧
      Unchanged s t (stepParts ++ [.pendRestart, .otherPus])) ∧
    ((∀ p : PuId, m.getLsbD p.number = true → (s.pu p).flagT = true) →
      ∃ t, exec (.int m) s = .next t ∧ Advances s t ∧
        (∀ p, (t.pu p).pendInter = (m.getLsbD p.number || (s.pu p).pendInter)) ∧
        (∀ p, p ≠ s.turn → ({ t.pu p with pendInter := (s.pu p).pendInter } : PU) = s.pu p) ∧
        Unchanged s t (stepParts ++ [.pendInter, .otherPus])) ∧
    ((∃ p : PuId, m.getLsbD p.number = true ∧ (s.pu p).flagT = false) →
      ∃ t, exec (.int m) s = .next t ∧ Unchanged s t [])

/-- 45_control.md R332, 92_eei_decisions.md D31: a Wait whose mask is empty, or names a running PU other than
the issuer, halts the issuer at its instruction; a Wait all of whose named PUs are halted completes; and
every PU whose own Wait is then satisfied goes on after it, the others keep everything. The end of a Wait is
marked, to be counted (60_exceptions.md R361). -/
def Obligations.WaitInstruction : Prop :=
  (∀ (s : State) (m : BitVec 4),
    m = 0 ∨ (∃ p, m.getLsbD p.number = true ∧ p ≠ s.turn ∧ (s.pu p).flagW = false) →
    ∃ t, exec (.wait m) s = .next t ∧ t.cpu.flagW = true ∧ t.cpu.waitMask = some m ∧
      t.event = .waiting ∧ Unchanged s t [.status 25, .waitMask, .otherPus]) ∧
  (∀ (s : State) (m : BitVec 4), (∀ p : PuId, (s.pu p).Wf) →
    let met := fun (q : PuId) => ∃ n : BitVec 4, (s.pu q).waitMask = some n ∧ n ≠ 0 ∧
      ∀ p : PuId, n.getLsbD p.number = true → p = s.turn ∨ (s.pu p).flagW = true
    ((m ≠ 0 ∧ ∀ p : PuId, m.getLsbD p.number = true → p = s.turn ∨ (s.pu p).flagW = true) →
      ∃ t, exec (.wait m) s = .next t ∧ t.At s.cpu.npc (pcAdd s.cpu.npc 1) false .waiting ∧
        t.cpu.flagW = false ∧ t.cpu.waitMask = none ∧ t.cpu.waitEnded = true ∧
        Unchanged s t (stepParts ++ [.status 25, .waitMask, .waitEnded, .otherPus])) ∧
    (∀ t, exec (.wait m) s = .next t → ∀ q, q ≠ s.turn →
      (met q → WaitEnds (s.pu q) (t.pu q) ∧ ∀ j < 32, j ≠ 25 →
        (t.pu q).sscr.getLsbD j = (s.pu q).sscr.getLsbD j) ∧
      (¬met q → t.pu q = s.pu q)))

/-- 45_control.md R320, R325, R328: Rsm, Send and Strt block, with no effect, while a target other than the
issuer runs, or while the issuer is in user mode and a target is not. Otherwise Rsm clears A at each target
and ends the Wait the target is blocked in; Strt clears A and W and sets the target's program counters from
RegB; Send writes RegB's contents into SendDest's register; nothing else of any PU changes, but that a Wait
Strt ends, a freeze, and the marks of the target's old slot are gone with its program counters, and that a
register with a result pending is marked to end open when Send writes it, every other pending result being
as it was (70_reset_and_hazards.md R398; that a Send counts as a write inside the interval is L30). -/
def Obligations.RendezvousInstructions : Prop :=
  (∀ (s : State) (rb : Reg) (m : BitVec 4),
    (∃ p : PuId, m.getLsbD p.number = true ∧
      (p ≠ s.turn ∧ (s.pu p).flagW = false ∨ s.cpu.flagU = true ∧ (s.pu p).flagU = false)) →
    (∃ t, exec (.rsm m) s = .next t ∧ t.event = .waiting ∧ Unchanged s t []) ∧
    (∃ t, exec (.send rb m) s = .next t ∧ t.event = .waiting ∧ Unchanged s t []) ∧
    (m.getLsbD s.turn.number = false →
      ∃ t, exec (.strt rb m) s = .next t ∧ t.event = .waiting ∧ Unchanged s t [])) ∧
  (∀ (s : State) (rb : Reg) (m : BitVec 4), s.cpu.flagW = false →
    (∀ p : PuId, m.getLsbD p.number = true → (p = s.turn ∨ (s.pu p).flagW = true) ∧
      (s.cpu.flagU = true → (s.pu p).flagU = true)) →
    (∃ t, exec (.rsm m) s = .next t ∧ Advances s t ∧
      Unchanged s t (stepParts ++ [.status 4, .otherPus]) ∧
      t.cpu.flagA = (s.cpu.flagA && !m.getLsbD s.turn.number) ∧
      ∀ p, p ≠ s.turn →
        (m.getLsbD p.number = false → t.pu p = s.pu p) ∧
        (m.getLsbD p.number = true → (t.pu p).flagA = false ∧
          (∀ j < 32, j ≠ 4 → j ≠ 25 → (t.pu p).sscr.getLsbD j = (s.pu p).sscr.getLsbD j) ∧
          ((s.pu p).waitMask.isSome = true → WaitEnds (s.pu p) (t.pu p)) ∧
          ((s.pu p).waitMask = none → (t.pu p).flagW = (s.pu p).flagW ∧
            ({ t.pu p with sscr := (s.pu p).sscr } : PU) = s.pu p))) ∧
    (m.getLsbD s.turn.number = false → ∃ t, exec (.strt rb m) s = .next t ∧ Advances s t ∧
      Unchanged s t (stepParts ++ [.otherPus]) ∧
      ∀ p, p ≠ s.turn →
        (m.getLsbD p.number = false → t.pu p = s.pu p) ∧
        (m.getLsbD p.number = true → (t.pu p).flagA = false ∧ (t.pu p).flagW = false ∧
          (∀ j < 32, j ≠ 4 → j ≠ 25 → (t.pu p).sscr.getLsbD j = (s.pu p).sscr.getLsbD j) ∧
          (t.pu p).pc = (s.rd rb).setWidth 30 ∧ (t.pu p).npc = pcAdd ((s.rd rb).setWidth 30) 1 ∧
          (t.pu p).waitMask = none ∧ (t.pu p).waitSem = none ∧ (t.pu p).run = none ∧
          (t.pu p).afterBranch = false ∧
          ({ t.pu p with
            sscr := (s.pu p).sscr, pc := (s.pu p).pc, npc := (s.pu p).npc
            waitMask := (s.pu p).waitMask, waitSem := (s.pu p).waitSem, run := (s.pu p).run
            afterBranch := (s.pu p).afterBranch } : PU) = s.pu p)) ∧
    (∃ t, exec (.send rb m) s = .next t ∧ Advances s t ∧
      Unchanged s t (stepParts ++ [.otherPus] ++ [.reg (Config.sendDest rb)]) ∧
      (m.getLsbD s.turn.number = true → t.cpu.reg (Config.sendDest rb) = s.rd rb) ∧
      (m.getLsbD s.turn.number = false →
        t.cpu.reg (Config.sendDest rb) = s.cpu.reg (Config.sendDest rb)) ∧
      (∀ p, (t.pu p).inflight = if m.getLsbD p.number then
          (s.pu p).inflight.map (fun e =>
            { e with spoiled := e.spoiled || decide (e.dest = .gpr (Config.sendDest rb)) })
        else (s.pu p).inflight) ∧
      ∀ p, p ≠ s.turn →
        (m.getLsbD p.number = false → t.pu p = s.pu p) ∧
        (∀ r, (t.pu p).reg r =
          if m.getLsbD p.number = true ∧ r = Config.sendDest rb then s.rd rb else (s.pu p).reg r) ∧
        ({ t.pu p with regs := (s.pu p).regs, inflight := (s.pu p).inflight } : PU) = s.pu p))

/-- 45_control.md R312, R313, 20_memory.md R97: in system mode ITLB empties the TLB, so that the next
translation of any address is the page table's; that the walk reads memory as loads see it, stores not written
back included, is the model's choice where R312 says "not stated" (L5, L6); RDTX reads the tag of the set and
association RegA names. -/
def Obligations.TranslationAndTagAccess : Prop :=
  ∀ (s : State), s.cpu.flagU = false →
    Completes .itlb s [.tlb] (fun t => ∀ va, t.pageOf va = Config.pageWalk s.s15 s.mem va) ∧
    (∀ (rb ra : Reg) (set : Fin 16) (way : Fin 4),
      set.val = (s.rd ra).toNat / 16 % 16 → way.val = (s.rd ra).toNat % 4 →
      let e := (s.cacheSet set).way way
      Writes (.rdtx rb ra) s rb (Config.tagFormat e.base e.valid e.readOnly e.dirty e.user) []
        (fun _ => True))

/-! ### Caches -/

/-- 44_cache_control.md R290, R291, R292, R298, R299, R300, R301, 20_memory.md R102: of a line in the data
cache, FDC puts what loads saw into Main Memory if the line was modified, but for words that nothing stored
since CDC made it; IDC does not; then the line is out of the cache, its entry next to be replaced, and loads see
what Main Memory holds. UDC and VDC mark a modified line unmodified and keep it; UDC puts what loads see into
Main Memory as FDC does, VDC leaves it as it was; neither changes what a load sees. A line not in the cache is
left alone; the other entries keep everything, and Main Memory what it holds of the other lines. FDC and UDC, be
the line cached or not, mark the line's stores as written back for the fetches to come (20_memory.md R100, L8).
-/
def Obligations.DataCacheLineInstructions : Prop :=
  (∀ (s : State) (ra : Reg) (i : Instr) (k : AccessKind) (d : PageDesc),
    (i = .fdc ra ∧ k = .load) ∨ (i = .idc ra ∧ k = .store) → memoryWf s.mem → s.CacheWf →
    let va := byteOfWord (wordAddress (s.rd ra) 0)
    let pa := pageAddress d va
    s.Allows va k d → ∃ t, exec i s = .next t ∧ Advances s t ∧
      (∀ h, t.storedHalf h = (s.storedHalf h).map (fun r =>
        { r with written := r.written || decide (k = .load ∧ s.lineBase h = s.lineBase pa) })) ∧
      (k = .store → t.stored = s.stored) ∧
      (s.lineAt pa = none → Unchanged s t (stepParts ++ [.tlb, .stored])) ∧
      (∀ e, s.lineAt pa = some e →
        t.lineAt pa = none ∧
        (s.cacheSet (setIndex pa)).findWay (s.lineBase pa) =
          some (t.cacheSet (setIndex pa)).lru ∧
        t.storedLine pa = (if e.dirty = true ∧ k = .load then s.writtenLine e else s.storedLine pa) ∧
        (e.unstored = 0 → s.writtenLine e = s.seenLine pa) ∧
        t.seenLine pa = t.storedLine pa ∧
        (∀ a, ¬s.inLine pa a → readByte t.mem a = readByte s.mem a) ∧
        (let w := (t.cacheSet (setIndex pa)).lru
         OtherEntriesKept s t (setIndex pa) w ∧
         (t.cacheSet (setIndex pa)).order = w :: (s.cacheSet (setIndex pa)).order.erase w) ∧
        MainAfter s t pa none ∧
        Unchanged s t (stepParts ++ accessParts ++ [.memory, .stored]))) ∧
  (∀ (s : State) (ra : Reg) (i : Instr) (k : AccessKind) (d : PageDesc),
    (i = .udc ra ∧ k = .load) ∨ (i = .vdc ra ∧ k = .store) →
    let va := byteOfWord (wordAddress (s.rd ra) 0)
    let pa := pageAddress d va
    s.Allows va k d → ∃ t, exec i s = .next t ∧ Advances s t ∧
      Unchanged s t (stepParts ++ accessParts ++ [.stored]) ∧
      (∀ h, t.storedHalf h = (s.storedHalf h).map (fun r =>
        { r with written := r.written || decide (k = .load ∧ s.lineBase h = s.lineBase pa) })) ∧
      (k = .store → t.stored = s.stored) ∧
      ((∀ e, s.lineAt pa = some e → e.dirty = false) → t.dcache = s.dcache) ∧
      (∀ e, s.lineAt pa = some e → e.dirty = true →
        (∃ f, t.lineAt pa = some f ∧ f.dirty = false ∧ f.valid = true) ∧
        (e.unstored = 0 → s.writtenLine e = s.seenLine pa) ∧
        (s.CacheWf → t.storedLine pa = if k = .load then s.writtenLine e else s.storedLine pa)) ∧
      (∀ w, (s.cacheSet (setIndex pa)).findWay (s.lineBase pa) = some w →
        let e := (s.cacheSet (setIndex pa)).way w
        let f := (t.cacheSet (setIndex pa)).way w
        f.base = e.base ∧ f.readOnly = e.readOnly ∧ f.user = e.user ∧ f.unstored = e.unstored ∧
        OtherEntriesKept s t (setIndex pa) w ∧
        (t.cacheSet (setIndex pa)).order = (s.cacheSet (setIndex pa)).order) ∧
      MainAfter s t pa none)

/-- 44_cache_control.md R290, R300, L42: CDC makes the set's least recently used entry the line's, valid and
unmodified, no word of it stored, its data open, R and U from its page; Main Memory keeps what it held of a
line that was not in the cache, and receives a modified line that is replaced, but for words not stored;
another entry that held the line is invalid, the others and the recency order stay (the order by L42); and
memory changes only in the line and in bytes that Main Memory does not get of the line replaced. Words not
stored are never written back: after CDC of a line that was not in the cache, a store of one word and FDC,
Main Memory holds that word and what it held of every other byte of the line. -/
def Obligations.CreateLine : Prop :=
  (∀ (s : State) (ra : Reg) (d : PageDesc), memoryWf s.mem → s.CacheWf →
    let va := byteOfWord (wordAddress (s.rd ra) 0)
    let pa := pageAddress d va
    s.Allows va .store d → ∃ t, exec (.cdc ra) s = .next t ∧ Advances s t ∧
      (t.cacheSet (setIndex pa)).findWay (s.lineBase pa) = some (s.cacheSet (setIndex pa)).lru ∧
      (∃ f, t.lineAt pa = some f ∧ f.dirty = false ∧ f.readOnly = d.readOnly ∧ f.user = d.user ∧
        ∀ k < 16, f.unstored.getLsbD k = decide (4 * k < s.lineBytes)) ∧
      (let c := s.cacheSet (setIndex pa)
       let c' := t.cacheSet (setIndex pa)
       c'.order = c.order ∧
       (∀ v, v ≠ c.lru → (c.findWay (s.lineBase pa) = some v → (c'.way v).valid = false) ∧
         (c.findWay (s.lineBase pa) ≠ some v → c'.way v = c.way v)) ∧
       (∀ j, j ≠ setIndex pa → t.cacheSet j = s.cacheSet j) ∧
       MainAfter s t pa (some (c.way c.lru))) ∧
      (s.lineAt pa = none → t.storedLine pa = s.storedLine pa) ∧
      ((s.cacheSet (setIndex pa)).findWay (s.lineBase pa) = some (s.cacheSet (setIndex pa)).lru →
        let e := (s.cacheSet (setIndex pa)).way (s.cacheSet (setIndex pa)).lru
        t.storedLine pa = if e.dirty = true then s.writtenLine e else s.storedLine pa) ∧
      Unchanged s t (stepParts ++ accessParts ++ [.memory]) ∧
      ∀ a, ¬s.inLine pa a →
        ¬((s.cacheSet (setIndex pa)).way (s.cacheSet (setIndex pa)).lru).Loses a →
        readByte t.mem a = readByte s.mem a) ∧
  (∀ (s t u v : State) (ra rb : Reg) (d : PageDesc), memoryWf s.mem → s.CacheWf →
    let va := byteOfWord (wordAddress (s.rd ra) 0)
    let pa := pageAddress d va
    s.lineAt pa = none → s.Allows va .store d → t.Allows va .store d → u.Allows va .load d →
    exec (.cdc ra) s = .next t → exec (.stWR rb ra) t = .next u → exec (.fdc ra) u = .next v →
      v.lineAt pa = none ∧ readWord s.params.byteOrder v.mem pa.toNat = s.rd rb ∧
      (∀ a, s.inLine pa a → ¬(pa.toNat ≤ a ∧ a < pa.toNat + 4) →
        readByte v.mem a = (s.storedLine pa).getD (a - (s.lineBase pa).toNat) 0) ∧
      ∀ k < s.lineBytes, (v.storedLine pa).getD k 0 = readByte v.mem ((s.lineBase pa).toNat + k))

/-- 44_cache_control.md R293 to R297, R301, L43: PDC may bring the line into the data cache, as a load does (its
recency by L43), Main Memory then receiving a modified line that is replaced, but for words not stored, and
keeping the others, PIC a copy of what Main Memory holds into the instruction cache, and no byte a load sees
changes but in a line that is replaced, where Main Memory does not get it. IIC drops the line's copy from the
instruction cache and no other; IICa, in system mode, drops them all; each ends the records of the stores
written back before it (20_memory.md R100, L8), and no others. -/
def Obligations.PrefetchesAndInstructionCache : Prop :=
  (∀ (s : State) (d : PageDesc), memoryWf s.mem →
    (∀ ra : Reg,
      let va := byteOfWord (wordAddress (s.rd ra) 0)
      let pa := pageAddress d va
      s.Allows va .load d → ∃ t, exec (.pdc ra) s = .next t ∧ Advances s t ∧
        ((t.dcache = s.dcache ∧ ∀ a, readByte t.mem a = readByte s.mem a) ∨
          (s.lineAt pa = none ∧ (t.lineAt pa).isSome = true ∧ CacheAfter s t pa d false ∧
            (s.CacheWf → MainAfter s t pa (s.victim pa) ∧ t.storedLine pa = s.storedLine pa))) ∧
        ((s.lineAt pa).isSome = true → t.dcache = s.dcache) ∧
        Unchanged s t (stepParts ++ accessParts ++ [.memory]) ∧
        ∀ a, ¬s.Discards pa a → readByte t.mem a = readByte s.mem a) ∧
    (∀ (i : Instr) (wa : WAddr),
      (∃ ra, i = .picA ra ∧ wa = wordAddress (s.rd ra) 0) ∨
        (∃ disp, i = .picR disp ∧ wa.toNat = (s.cpu.pc + BitVec.ofInt 30 disp).toNat / 2) →
      let pa := pageAddress d (byteOfWord wa)
      s.Allows (byteOfWord wa) .load d → ∃ t, exec i s = .next t ∧ Advances s t ∧
        (∀ base, base ≠ s.lineBase pa → t.fetchCopy base = s.fetchCopy base) ∧
        (t.fetchCopy (s.lineBase pa) = s.fetchCopy (s.lineBase pa) ∨
          s.fetchCopy (s.lineBase pa) = none ∧
            t.fetchCopy (s.lineBase pa) = some (s.storedLine pa)) ∧
        Unchanged s t (stepParts ++ [.tlb, .instCache]))) ∧
  (∀ (s : State),
    (∀ (ra : Reg) (d : PageDesc),
      let va := byteOfWord (wordAddress (s.rd ra) 0)
      let pa := pageAddress d va
      s.Allows va .load d → ∃ t, exec (.iic ra) s = .next t ∧ Advances s t ∧
        t.fetchCopy (s.lineBase pa) = none ∧
        (∀ base, base ≠ s.lineBase pa → t.fetchCopy base = s.fetchCopy base) ∧
        (s.StoredWf → ∀ h, t.storedHalf h = (s.storedHalf h).filter (fun r =>
          !(r.written && decide (s.lineBase h = s.lineBase pa)))) ∧
        Unchanged s t (stepParts ++ [.tlb, .instCache, .stored])) ∧
    (s.cpu.flagU = false →
      Completes .iicA s [.instCache, .stored] (fun t => (∀ base, t.fetchCopy base = none) ∧
        (s.StoredWf → ∀ h, t.storedHalf h = (s.storedHalf h).filter (fun r => !r.written)))))

/-- 20_memory.md R100, 44_cache_control.md R293, R294, R298: after UDC and then IIC of a line, an instruction
fetch from it sees what the last stores left. After IIC of its line, or IICa, a fetch reads Main Memory, but
where a store to the halfword was not written back before it (L8). After a store a fetch of its halfwords
returns the new value or one that it might have returned before; and after IIC, or IIC before FDC or UDC, it
may still return each of them. -/
def Obligations.FetchSeesUpdatedLine : Prop :=
  (∀ (s t u : State) (ra : Reg) (d : PageDesc) (off : PAddr), memoryWf s.mem → s.CacheWf → s.NoStale →
    let va := byteOfWord (wordAddress (s.rd ra) 0)
    s.Allows va .load d → exec (.udc ra) s = .next t → exec (.iic ra) t = .next u →
    s.lineBase off = s.lineBase (pageAddress d va) → off.toNat % 2 = 0 →
      u.fetched off = s.halfIn off) ∧
  (∀ (s t : State) (i : Instr) (ra : Reg) (d : PageDesc) (off : PAddr), s.StoredWf →
    let va := byteOfWord (wordAddress (s.rd ra) 0)
    (i = .iic ra ∧ s.Allows va .load d ∧ s.lineBase off = s.lineBase (pageAddress d va)) ∨
      (i = .iicA ∧ s.cpu.flagU = false) →
    (∀ r, s.storedHalf off = some r → r.written = true) → exec i s = .next t →
      t.fetched off = s.mainHalf off) ∧
  (∀ (s t : State) (rb ra : Reg) (d : PageDesc) (off : PAddr), memoryWf s.mem → s.CacheWf →
    let va := byteOfWord (wordAddress (s.rd ra) 0)
    let pa := pageAddress d va
    s.Allows va .store d → exec (.stWR rb ra) s = .next t → off = pa ∨ off = pa + 2 →
      t.fetched off = t.halfIn off ∨ t.fetched off ∈ s.fetchChoices off) ∧
  (∀ (s t u : State) (i : Instr) (ra : Reg) (off : PAddr) (r : StoredHalf) (x : Half),
    s.storedHalf off = some r → r.written = false → x ∈ r.values →
    exec (.iic ra) s = .next t → i = .fdc ra ∨ i = .udc ra → exec i t = .next u →
      x ∈ t.fetchChoices off ∧ x ∈ u.fetchChoices off)

/-- 44_cache_control.md R301, 20_memory.md R101, 60_exceptions.md R357: a cache instruction whose address the
protection of the page denies takes trap 0x15 with the address in Trap Argument and does nothing else; that
the tag of the cached line denies it in the same way is the model's inference (L42, L7), R301 naming the
page only. -/
def Obligations.CacheInstructionFaults : Prop :=
  ∀ (s : State) (i : Instr) (wa : WAddr) (k : AccessKind) (d : PageDesc),
    (k = .store ∧ (∃ ra, wa = wordAddress (s.rd ra) 0 ∧ (i = .cdc ra ∨ i = .idc ra ∨ i = .vdc ra))) ∨
      (k = .load ∧ (∃ ra, wa = wordAddress (s.rd ra) 0 ∧
        (i = .fdc ra ∨ i = .udc ra ∨ i = .pdc ra ∨ i = .iic ra ∨ i = .picA ra))) ∨
      (k = .load ∧ ∃ disp, i = .picR disp ∧ wa.toNat = (s.cpu.pc + BitVec.ofInt 30 disp).toNat / 2) →
    s.pageOf (byteOfWord wa) = some d →
    pageDenies d k s.cpu.flagU = true ∨
      (d.message = false ∧ s.tagDenies (pageAddress d (byteOfWord wa)) k s.cpu.flagU = true) →
    FaultsWith i s 0x15 (BitVec.ofNat 32 wa.toNat) []

/-! ### The saved context -/

/-- 10_state.md R57, R59, 60_exceptions.md R352: at the start of a PU's step, while T is set, Status_Save is
the PU's status and the PC_Save Queue its program counters, whatever they held; while T is clear they keep
what they hold; so when a PU clears T, they keep the context of that instruction. -/
def Obligations.SavedContextFollowsTraps : Prop :=
  (∀ s : State,
    let u := s.input.cpu
    let v := s.beginStep.cpu
    (u.flagT = true → v.statusSave = u.sscr ∧ v.qHead = u.pc ∧ v.qTail = u.npc) ∧
    (u.flagT = false → v.statusSave = u.statusSave ∧ v.qHead = u.qHead ∧ v.qTail = u.qTail) ∧
    ({ v with
        statusSave := u.statusSave, qHead := u.qHead, qTail := u.qTail, waitSem := u.waitSem } : PU) = u ∧
    (∀ p, p ≠ s.input.turn → s.beginStep.pu p = s.input.pu p)) ∧
  (∀ s : State, s.beginStep.cpu.flagT = true → s.beginStep.cpu.flagU = false →
    ∃ t, exec (.clrM 11) s.beginStep = .next t ∧ t.cpu.flagT = false ∧
      t.cpu.statusSave = s.beginStep.cpu.sscr ∧ t.cpu.qHead = s.beginStep.cpu.pc ∧
      t.cpu.qTail = s.beginStep.cpu.npc)
end

