-- ==== Sys2Proof/Laws/Memory.lean ====
section
/-! SUPPORT. Memory: reading after writing, and the canonical form that every operation keeps. -/

namespace Sys2Proof.Machine

/-- Every listed address is above `a`. -/
abbrev Above (a : Nat) (m : Memory) : Prop := ∀ x ∈ m, a < x.1

theorem readByte_above {m : Memory} {a b : Nat} (h : Above b m) (hab : a ≤ b) :
    readByte m a = unwrittenByte := by
  induction m with
  | nil => rfl
  | cons x rest ih =>
    have hx := h x (by simp)
    have : a ≠ x.1 := by omega
    simp only [readByte, if_neg this]
    exact ih (fun y hy => h y (by simp [hy]))

theorem memoryWf_tail {x : Host.Cell} {m : Memory} (h : memoryWf (x :: m)) : memoryWf m :=
  ⟨(List.pairwise_cons.mp h.1).2, fun y hy => h.2 y (by simp [hy])⟩

theorem memoryWf_above {x : Host.Cell} {m : Memory} (h : memoryWf (x :: m)) : Above x.1 m :=
  fun y hy => (List.pairwise_cons.mp h.1).1 y hy

theorem memoryWf_cons {x : Host.Cell} {m : Memory} (hm : memoryWf m) (ha : Above x.1 m)
    (hx : x.2 ≠ unwrittenByte) : memoryWf (x :: m) := by
  refine ⟨List.pairwise_cons.mpr ⟨fun y hy => ha y hy, hm.1⟩, ?_⟩
  intro y hy
  rcases List.mem_cons.mp hy with rfl | h
  · exact hx
  · exact hm.2 y h

theorem writeByte_above {m : Memory} {a b : Nat} {v : Byte} (h : Above b m) (hab : b < a) :
    Above b (writeByte m a v) := by
  induction m with
  | nil =>
    simp only [writeByte]
    split
    · simp [Above]
    · intro x hx
      simp only [List.mem_singleton] at hx
      subst hx
      exact hab
  | cons x rest ih =>
    have hr : Above b rest := fun y hy => h y (by simp [hy])
    have hx := h x (by simp)
    simp only [writeByte]
    split
    · split
      · exact h
      · intro y hy
        rcases List.mem_cons.mp hy with rfl | hy
        · exact hab
        · exact h y hy
    · split
      · split
        · exact hr
        · intro y hy
          rcases List.mem_cons.mp hy with rfl | hy
          · exact hab
          · exact hr y hy
      · intro y hy
        rcases List.mem_cons.mp hy with rfl | hy
        · exact hx
        · exact ih hr y hy

/-- A write keeps the canonical form. -/
theorem writeByte_wf {m : Memory} (h : memoryWf m) (a : Nat) (v : Byte) : memoryWf (writeByte m a v) := by
  induction m with
  | nil =>
    simp only [writeByte]
    split
    · exact h
    · rename_i hv
      exact ⟨by simp, by simpa using hv⟩
  | cons x rest ih =>
    have ht := memoryWf_tail h
    have ha := memoryWf_above h
    have hx := h.2 x (by simp)
    simp only [writeByte]
    split
    · rename_i hlt
      split
      · exact h
      · rename_i hv
        refine memoryWf_cons h (fun y hy => ?_) hv
        rcases List.mem_cons.mp hy with rfl | hy
        · exact hlt
        · exact Nat.lt_trans hlt (ha y hy)
    · split
      · rename_i heq
        subst heq
        split
        · exact ht
        · rename_i hv
          exact memoryWf_cons ht ha hv
      · rename_i h1 h2
        exact memoryWf_cons (ih ht) (writeByte_above ha (by omega)) hx

/-- A read after a write, wherever they are. -/
theorem readByte_writeByte {m : Memory} (h : memoryWf m) (a b : Nat) (v : Byte) :
    readByte (writeByte m a v) b = if b = a then v else readByte m b := by
  induction m with
  | nil =>
    simp only [writeByte]
    split
    · rename_i hv
      subst hv
      simp [readByte]
    · simp [readByte]
  | cons x rest ih =>
    have ht := memoryWf_tail h
    have ha := memoryWf_above h
    have hx := h.2 x (by simp)
    simp only [writeByte]
    split
    · rename_i hlt
      split
      · rename_i hv
        subst hv
        by_cases hb : b = a
        · subst hb
          have : b ≠ x.1 := by omega
          simp only [readByte, if_true, if_neg this]
          exact readByte_above ha (by omega)
        · simp [hb]
      · by_cases hb : b = a
        · subst hb; simp [readByte]
        · simp [readByte, hb]
    · split
      · rename_i heq
        subst heq
        split
        · rename_i hv
          subst hv
          by_cases hb : b = x.1
          · subst hb
            simpa using readByte_above ha (Nat.le_refl _)
          · simp [readByte, hb]
        · by_cases hb : b = x.1
          · subst hb; simp [readByte]
          · simp [readByte, hb]
      · rename_i h1 h2
        simp only [readByte]
        by_cases hb : b = x.1
        · have : b ≠ a := by omega
          simp [hb]
          intro hc
          omega
        · simp only [if_neg hb]
          exact ih ht

theorem writeBytes_wf {m : Memory} (h : memoryWf m) (a : Nat) (bs : List Byte) :
    memoryWf (writeBytes m a bs) := by
  induction bs generalizing m a with
  | nil => exact h
  | cons b rest ih => exact ih (writeByte_wf h a b) (a + 1)

/-- Writing consecutive bytes: each address in their range reads its own byte, others as before. -/
theorem readByte_writeBytes {m : Memory} (h : memoryWf m) (a b : Nat) (bs : List Byte) :
    readByte (writeBytes m a bs) b =
      if a ≤ b ∧ b < a + bs.length then bs.getD (b - a) 0 else readByte m b := by
  induction bs generalizing m a with
  | nil =>
    have : ¬(a ≤ b ∧ b < a + 0) := by omega
    simp only [writeBytes, List.length_nil, if_neg this]
  | cons c rest ih =>
    simp only [writeBytes]
    rw [ih (writeByte_wf h a c) (a + 1), readByte_writeByte h]
    simp only [List.length_cons]
    by_cases hb : b = a
    · subst hb
      rw [if_neg (by omega), if_pos rfl, if_pos (by omega)]
      simp
    · by_cases hin : a + 1 ≤ b ∧ b < a + 1 + rest.length
      · rw [if_pos hin, if_pos (by omega)]
        obtain ⟨k, hk⟩ : ∃ k, b - a = k + 1 := ⟨b - a - 1, by omega⟩
        have : b - (a + 1) = k := by omega
        rw [hk, this]
        simp
      · rw [if_neg hin, if_neg hb, if_neg (by omega)]

theorem bytesOfWord_length (o : ByteOrder) (w : Word) : (bytesOfWord o w).length = 4 := by
  cases o <;> rfl

theorem writeWord_wf {m : Memory} (h : memoryWf m) (o : ByteOrder) (a : Nat) (w : Word) :
    memoryWf (writeWord o m a w) := writeBytes_wf h a _

/-- The bytes of a word make the word again. -/
theorem wordOfBytes_bytesOfWord (o : ByteOrder) (w : Word) :
    wordOfBytes o ((bytesOfWord o w).getD 0 0) ((bytesOfWord o w).getD 1 0)
      ((bytesOfWord o w).getD 2 0) ((bytesOfWord o w).getD 3 0) = w := by
  have join : ∀ v : Word, (v.extractLsb' 24 8 ++ v.extractLsb' 16 8 ++ v.extractLsb' 8 8 ++
      v.extractLsb' 0 8 : BitVec (8 + 8 + 8 + 8)) = v := by
    intro v
    apply BitVec.eq_of_getLsbD_eq
    intro i hi
    simp only [BitVec.getLsbD_append, BitVec.getLsbD_extractLsb']
    by_cases h1 : i < 8
    · simp [h1]
    · by_cases h2 : i < 16
      · have : i - 8 < 8 := by omega
        simp [h1, this, show 8 + (i - 8) = i by omega]
      · by_cases h3 : i < 24
        · have h4 : ¬i - 8 < 8 := by omega
          have h5 : i - 8 - 8 < 8 := by omega
          simp [h1, h4, h5, show 16 + (i - 8 - 8) = i by omega]
        · have h4 : ¬i - 8 < 8 := by omega
          have h5 : ¬i - 8 - 8 < 8 := by omega
          have h6 : i - 8 - 8 - 8 < 8 := by omega
          simp [h1, h4, h5, h6, show 24 + (i - 8 - 8 - 8) = i by omega]
  cases o <;> exact join w

/-- A word read where it was written. -/
theorem readWord_writeWord {m : Memory} (h : memoryWf m) (o : ByteOrder) (a : Nat) (w : Word) :
    readWord o (writeWord o m a w) a = w := by
  have key : ∀ k, k < 4 → readByte (writeWord o m a w) (a + k) = (bytesOfWord o w).getD k 0 := by
    intro k hk
    rw [writeWord, readByte_writeBytes h, if_pos]
    · congr 1
      omega
    · rw [bytesOfWord_length]
      omega
  have h0 := key 0 (by omega)
  rw [Nat.add_zero] at h0
  rw [readWord, h0, key 1 (by omega), key 2 (by omega), key 3 (by omega)]
  exact wordOfBytes_bytesOfWord o w

/-- A byte outside a written word reads as before. -/
theorem readByte_writeWord {m : Memory} (h : memoryWf m) (o : ByteOrder) (a b : Nat) (w : Word)
    (hb : ¬(a ≤ b ∧ b < a + 4)) : readByte (writeWord o m a w) b = readByte m b := by
  rw [writeWord, readByte_writeBytes h, if_neg]
  rwa [bytesOfWord_length]

end Sys2Proof.Machine
end

