-- ==== Sys2Proof/Laws/State.lean ====
section
/-! SUPPORT. One lemma per field per update of the state, so that no later proof unfolds a record
update; and the reads of a PU after each named operation. -/

namespace Sys2Proof.Machine

/-! ### One PU replaced -/

@[simp] theorem State.setPu_params (s : State) (p : PuId) (u : PU) : (s.setPu p u).params = s.params := by
  cases p <;> rfl
@[simp] theorem State.setPu_turn (s : State) (p : PuId) (u : PU) : (s.setPu p u).turn = s.turn := by
  cases p <;> rfl
@[simp] theorem State.setPu_inputs (s : State) (p : PuId) (u : PU) : (s.setPu p u).inputs = s.inputs := by
  cases p <;> rfl
@[simp] theorem State.setPu_mem (s : State) (p : PuId) (u : PU) : (s.setPu p u).mem = s.mem := by
  cases p <;> rfl
@[simp] theorem State.setPu_dcache (s : State) (p : PuId) (u : PU) : (s.setPu p u).dcache = s.dcache := by
  cases p <;> rfl
@[simp] theorem State.setPu_icache (s : State) (p : PuId) (u : PU) : (s.setPu p u).icache = s.icache := by
  cases p <;> rfl
@[simp] theorem State.setPu_stored (s : State) (p : PuId) (u : PU) : (s.setPu p u).stored = s.stored := by
  cases p <;> rfl
@[simp] theorem State.setPu_tlb (s : State) (p : PuId) (u : PU) : (s.setPu p u).tlb = s.tlb := by
  cases p <;> rfl
@[simp] theorem State.setPu_s4 (s : State) (p : PuId) (u : PU) : (s.setPu p u).s4 = s.s4 := by
  cases p <;> rfl
@[simp] theorem State.setPu_window1 (s : State) (p : PuId) (u : PU) : (s.setPu p u).window1 = s.window1 := by
  cases p <;> rfl
@[simp] theorem State.setPu_sem0 (s : State) (p : PuId) (u : PU) : (s.setPu p u).sem0 = s.sem0 := by
  cases p <;> rfl
@[simp] theorem State.setPu_sem1 (s : State) (p : PuId) (u : PU) : (s.setPu p u).sem1 = s.sem1 := by
  cases p <;> rfl
@[simp] theorem State.setPu_s10 (s : State) (p : PuId) (u : PU) : (s.setPu p u).s10 = s.s10 := by
  cases p <;> rfl
@[simp] theorem State.setPu_s11 (s : State) (p : PuId) (u : PU) : (s.setPu p u).s11 = s.s11 := by
  cases p <;> rfl
@[simp] theorem State.setPu_s12 (s : State) (p : PuId) (u : PU) : (s.setPu p u).s12 = s.s12 := by
  cases p <;> rfl
@[simp] theorem State.setPu_s14 (s : State) (p : PuId) (u : PU) : (s.setPu p u).s14 = s.s14 := by
  cases p <;> rfl
@[simp] theorem State.setPu_s15 (s : State) (p : PuId) (u : PU) : (s.setPu p u).s15 = s.s15 := by
  cases p <;> rfl
@[simp] theorem State.setPu_pend (s : State) (p : PuId) (u : PU) : (s.setPu p u).pend = s.pend := by
  cases p <;> rfl
@[simp] theorem State.setPu_tick (s : State) (p : PuId) (u : PU) : (s.setPu p u).tick = s.tick := by
  cases p <;> rfl
@[simp] theorem State.setPu_event (s : State) (p : PuId) (u : PU) : (s.setPu p u).event = s.event := by
  cases p <;> rfl

@[simp] theorem State.setPu_pu_self (s : State) (p : PuId) (u : PU) : (s.setPu p u).pu p = u := by
  cases p <;> rfl
theorem State.setPu_pu_other (s : State) {p q : PuId} (u : PU) (h : q ≠ p) :
    (s.setPu p u).pu q = s.pu q := by
  cases p <;> cases q <;> first | rfl | exact absurd rfl h
theorem State.setPu_pu (s : State) (p q : PuId) (u : PU) :
    (s.setPu p u).pu q = if q = p then u else s.pu q := by
  cases p <;> cases q <;> rfl
@[simp] theorem State.setPu_setPu (s : State) (p : PuId) (u v : PU) :
    (s.setPu p u).setPu p v = s.setPu p v := by
  cases p <;> rfl

@[simp] theorem State.setCpu_params (s : State) (u : PU) : (s.setCpu u).params = s.params := State.setPu_params ..
@[simp] theorem State.setCpu_turn (s : State) (u : PU) : (s.setCpu u).turn = s.turn := State.setPu_turn ..
@[simp] theorem State.setCpu_inputs (s : State) (u : PU) : (s.setCpu u).inputs = s.inputs := State.setPu_inputs ..
@[simp] theorem State.setCpu_mem (s : State) (u : PU) : (s.setCpu u).mem = s.mem := State.setPu_mem ..
@[simp] theorem State.setCpu_dcache (s : State) (u : PU) : (s.setCpu u).dcache = s.dcache := State.setPu_dcache ..
@[simp] theorem State.setCpu_icache (s : State) (u : PU) : (s.setCpu u).icache = s.icache := State.setPu_icache ..
@[simp] theorem State.setCpu_stored (s : State) (u : PU) : (s.setCpu u).stored = s.stored := State.setPu_stored ..
@[simp] theorem State.setCpu_tlb (s : State) (u : PU) : (s.setCpu u).tlb = s.tlb := State.setPu_tlb ..
@[simp] theorem State.setCpu_s4 (s : State) (u : PU) : (s.setCpu u).s4 = s.s4 := State.setPu_s4 ..
@[simp] theorem State.setCpu_window1 (s : State) (u : PU) : (s.setCpu u).window1 = s.window1 := State.setPu_window1 ..
@[simp] theorem State.setCpu_sem0 (s : State) (u : PU) : (s.setCpu u).sem0 = s.sem0 := State.setPu_sem0 ..
@[simp] theorem State.setCpu_sem1 (s : State) (u : PU) : (s.setCpu u).sem1 = s.sem1 := State.setPu_sem1 ..
@[simp] theorem State.setCpu_s10 (s : State) (u : PU) : (s.setCpu u).s10 = s.s10 := State.setPu_s10 ..
@[simp] theorem State.setCpu_s11 (s : State) (u : PU) : (s.setCpu u).s11 = s.s11 := State.setPu_s11 ..
@[simp] theorem State.setCpu_s12 (s : State) (u : PU) : (s.setCpu u).s12 = s.s12 := State.setPu_s12 ..
@[simp] theorem State.setCpu_s14 (s : State) (u : PU) : (s.setCpu u).s14 = s.s14 := State.setPu_s14 ..
@[simp] theorem State.setCpu_s15 (s : State) (u : PU) : (s.setCpu u).s15 = s.s15 := State.setPu_s15 ..
@[simp] theorem State.setCpu_pend (s : State) (u : PU) : (s.setCpu u).pend = s.pend := State.setPu_pend ..
@[simp] theorem State.setCpu_tick (s : State) (u : PU) : (s.setCpu u).tick = s.tick := State.setPu_tick ..
@[simp] theorem State.setCpu_event (s : State) (u : PU) : (s.setCpu u).event = s.event := State.setPu_event ..
@[simp] theorem State.setCpu_cpu (s : State) (u : PU) : (s.setCpu u).cpu = u := by
  simp [State.setCpu, State.cpu]
theorem State.setCpu_pu_other (s : State) {q : PuId} (u : PU) (h : q ≠ s.turn) :
    (s.setCpu u).pu q = s.pu q := State.setPu_pu_other s u h

@[simp] theorem State.modCpu_params (s : State) (g : PU → PU) : (s.modCpu g).params = s.params := State.setPu_params ..
@[simp] theorem State.modCpu_turn (s : State) (g : PU → PU) : (s.modCpu g).turn = s.turn := State.setPu_turn ..
@[simp] theorem State.modCpu_inputs (s : State) (g : PU → PU) : (s.modCpu g).inputs = s.inputs := State.setPu_inputs ..
@[simp] theorem State.modCpu_mem (s : State) (g : PU → PU) : (s.modCpu g).mem = s.mem := State.setPu_mem ..
@[simp] theorem State.modCpu_dcache (s : State) (g : PU → PU) : (s.modCpu g).dcache = s.dcache := State.setPu_dcache ..
@[simp] theorem State.modCpu_icache (s : State) (g : PU → PU) : (s.modCpu g).icache = s.icache := State.setPu_icache ..
@[simp] theorem State.modCpu_stored (s : State) (g : PU → PU) : (s.modCpu g).stored = s.stored := State.setPu_stored ..
@[simp] theorem State.modCpu_tlb (s : State) (g : PU → PU) : (s.modCpu g).tlb = s.tlb := State.setPu_tlb ..
@[simp] theorem State.modCpu_s4 (s : State) (g : PU → PU) : (s.modCpu g).s4 = s.s4 := State.setPu_s4 ..
@[simp] theorem State.modCpu_window1 (s : State) (g : PU → PU) : (s.modCpu g).window1 = s.window1 := State.setPu_window1 ..
@[simp] theorem State.modCpu_sem0 (s : State) (g : PU → PU) : (s.modCpu g).sem0 = s.sem0 := State.setPu_sem0 ..
@[simp] theorem State.modCpu_sem1 (s : State) (g : PU → PU) : (s.modCpu g).sem1 = s.sem1 := State.setPu_sem1 ..
@[simp] theorem State.modCpu_s10 (s : State) (g : PU → PU) : (s.modCpu g).s10 = s.s10 := State.setPu_s10 ..
@[simp] theorem State.modCpu_s11 (s : State) (g : PU → PU) : (s.modCpu g).s11 = s.s11 := State.setPu_s11 ..
@[simp] theorem State.modCpu_s12 (s : State) (g : PU → PU) : (s.modCpu g).s12 = s.s12 := State.setPu_s12 ..
@[simp] theorem State.modCpu_s14 (s : State) (g : PU → PU) : (s.modCpu g).s14 = s.s14 := State.setPu_s14 ..
@[simp] theorem State.modCpu_s15 (s : State) (g : PU → PU) : (s.modCpu g).s15 = s.s15 := State.setPu_s15 ..
@[simp] theorem State.modCpu_pend (s : State) (g : PU → PU) : (s.modCpu g).pend = s.pend := State.setPu_pend ..
@[simp] theorem State.modCpu_tick (s : State) (g : PU → PU) : (s.modCpu g).tick = s.tick := State.setPu_tick ..
@[simp] theorem State.modCpu_event (s : State) (g : PU → PU) : (s.modCpu g).event = s.event := State.setPu_event ..
@[simp] theorem State.modCpu_cpu (s : State) (g : PU → PU) : (s.modCpu g).cpu = g s.cpu := by
  simp [State.modCpu]
theorem State.modCpu_pu_other (s : State) {q : PuId} (g : PU → PU) (h : q ≠ s.turn) :
    (s.modCpu g).pu q = s.pu q := State.setPu_pu_other s _ h
@[simp] theorem State.modCpu_modCpu (s : State) (f g : PU → PU) :
    (s.modCpu f).modCpu g = s.modCpu (fun u => g (f u)) := by
  simp only [State.modCpu, State.setCpu, State.setPu_turn, State.setPu_setPu, State.cpu, State.setPu_pu_self]

/-! ### The executing PU after updates of chip-global fields -/

@[simp] theorem State.pu_with_mem (s : State) (x : Memory) (p : PuId) :
    ({ s with mem := x } : State).pu p = s.pu p := by
  cases p <;> rfl
@[simp] theorem State.cpu_with_mem (s : State) (x : Memory) : ({ s with mem := x } : State).cpu = s.cpu :=
  State.pu_with_mem s x s.turn
@[simp] theorem State.pu_with_dcache (s : State) (x : Vector CacheSet 16) (p : PuId) :
    ({ s with dcache := x } : State).pu p = s.pu p := by
  cases p <;> rfl
@[simp] theorem State.cpu_with_dcache (s : State) (x : Vector CacheSet 16) : ({ s with dcache := x } : State).cpu = s.cpu :=
  State.pu_with_dcache s x s.turn
@[simp] theorem State.pu_with_icache (s : State) (x : List FetchLine) (p : PuId) :
    ({ s with icache := x } : State).pu p = s.pu p := by
  cases p <;> rfl
@[simp] theorem State.pu_with_stored (s : State) (x : List StoredHalf) (p : PuId) :
    ({ s with stored := x } : State).pu p = s.pu p := by
  cases p <;> rfl
@[simp] theorem State.cpu_with_icache (s : State) (x : List FetchLine) : ({ s with icache := x } : State).cpu = s.cpu :=
  State.pu_with_icache s x s.turn
@[simp] theorem State.cpu_with_stored (s : State) (x : List StoredHalf) : ({ s with stored := x } : State).cpu = s.cpu :=
  State.pu_with_stored s x s.turn
@[simp] theorem State.pu_with_tlb (s : State) (x : List TlbEntry) (p : PuId) :
    ({ s with tlb := x } : State).pu p = s.pu p := by
  cases p <;> rfl
@[simp] theorem State.cpu_with_tlb (s : State) (x : List TlbEntry) : ({ s with tlb := x } : State).cpu = s.cpu :=
  State.pu_with_tlb s x s.turn
@[simp] theorem State.pu_with_window1 (s : State) (x : BitVec 20) (p : PuId) :
    ({ s with window1 := x } : State).pu p = s.pu p := by
  cases p <;> rfl
@[simp] theorem State.cpu_with_window1 (s : State) (x : BitVec 20) : ({ s with window1 := x } : State).cpu = s.cpu :=
  State.pu_with_window1 s x s.turn
@[simp] theorem State.pu_with_sem0 (s : State) (x : BitVec 8) (p : PuId) :
    ({ s with sem0 := x } : State).pu p = s.pu p := by
  cases p <;> rfl
@[simp] theorem State.cpu_with_sem0 (s : State) (x : BitVec 8) : ({ s with sem0 := x } : State).cpu = s.cpu :=
  State.pu_with_sem0 s x s.turn
@[simp] theorem State.pu_with_sem1 (s : State) (x : BitVec 8) (p : PuId) :
    ({ s with sem1 := x } : State).pu p = s.pu p := by
  cases p <;> rfl
@[simp] theorem State.cpu_with_sem1 (s : State) (x : BitVec 8) : ({ s with sem1 := x } : State).cpu = s.cpu :=
  State.pu_with_sem1 s x s.turn
@[simp] theorem State.pu_with_s10 (s : State) (x : Word) (p : PuId) :
    ({ s with s10 := x } : State).pu p = s.pu p := by
  cases p <;> rfl
@[simp] theorem State.cpu_with_s10 (s : State) (x : Word) : ({ s with s10 := x } : State).cpu = s.cpu :=
  State.pu_with_s10 s x s.turn
@[simp] theorem State.pu_with_s11 (s : State) (x : Word) (p : PuId) :
    ({ s with s11 := x } : State).pu p = s.pu p := by
  cases p <;> rfl
@[simp] theorem State.cpu_with_s11 (s : State) (x : Word) : ({ s with s11 := x } : State).cpu = s.cpu :=
  State.pu_with_s11 s x s.turn
@[simp] theorem State.pu_with_s12 (s : State) (x : BitVec 16) (p : PuId) :
    ({ s with s12 := x } : State).pu p = s.pu p := by
  cases p <;> rfl
@[simp] theorem State.cpu_with_s12 (s : State) (x : BitVec 16) : ({ s with s12 := x } : State).cpu = s.cpu :=
  State.pu_with_s12 s x s.turn
@[simp] theorem State.pu_with_s14 (s : State) (x : Word) (p : PuId) :
    ({ s with s14 := x } : State).pu p = s.pu p := by
  cases p <;> rfl
@[simp] theorem State.cpu_with_s14 (s : State) (x : Word) : ({ s with s14 := x } : State).cpu = s.cpu :=
  State.pu_with_s14 s x s.turn
@[simp] theorem State.pu_with_s15 (s : State) (x : Word) (p : PuId) :
    ({ s with s15 := x } : State).pu p = s.pu p := by
  cases p <;> rfl
@[simp] theorem State.cpu_with_s15 (s : State) (x : Word) : ({ s with s15 := x } : State).cpu = s.cpu :=
  State.pu_with_s15 s x s.turn
@[simp] theorem State.pu_with_pend (s : State) (x : Pending) (p : PuId) :
    ({ s with pend := x } : State).pu p = s.pu p := by
  cases p <;> rfl
@[simp] theorem State.cpu_with_pend (s : State) (x : Pending) : ({ s with pend := x } : State).cpu = s.cpu :=
  State.pu_with_pend s x s.turn
@[simp] theorem State.pu_with_event (s : State) (x : StepEvent) (p : PuId) :
    ({ s with event := x } : State).pu p = s.pu p := by
  cases p <;> rfl
@[simp] theorem State.cpu_with_event (s : State) (x : StepEvent) : ({ s with event := x } : State).cpu = s.cpu :=
  State.pu_with_event s x s.turn
@[simp] theorem State.pu_with_tick (s : State) (x : Nat) (p : PuId) :
    ({ s with tick := x } : State).pu p = s.pu p := by
  cases p <;> rfl
@[simp] theorem State.cpu_with_tick (s : State) (x : Nat) : ({ s with tick := x } : State).cpu = s.cpu :=
  State.pu_with_tick s x s.turn

/-! ### Operations that change one PU only -/

@[simp] theorem State.wr_params (s : State) (r : Reg) (v : Word) : (s.wr r v).params = s.params := State.modCpu_params ..
@[simp] theorem State.wr_turn (s : State) (r : Reg) (v : Word) : (s.wr r v).turn = s.turn := State.modCpu_turn ..
@[simp] theorem State.wr_inputs (s : State) (r : Reg) (v : Word) : (s.wr r v).inputs = s.inputs := State.modCpu_inputs ..
@[simp] theorem State.wr_mem (s : State) (r : Reg) (v : Word) : (s.wr r v).mem = s.mem := State.modCpu_mem ..
@[simp] theorem State.wr_dcache (s : State) (r : Reg) (v : Word) : (s.wr r v).dcache = s.dcache := State.modCpu_dcache ..
@[simp] theorem State.wr_icache (s : State) (r : Reg) (v : Word) : (s.wr r v).icache = s.icache := State.modCpu_icache ..
@[simp] theorem State.wr_stored (s : State) (r : Reg) (v : Word) : (s.wr r v).stored = s.stored := State.modCpu_stored ..
@[simp] theorem State.wr_tlb (s : State) (r : Reg) (v : Word) : (s.wr r v).tlb = s.tlb := State.modCpu_tlb ..
@[simp] theorem State.wr_s4 (s : State) (r : Reg) (v : Word) : (s.wr r v).s4 = s.s4 := State.modCpu_s4 ..
@[simp] theorem State.wr_window1 (s : State) (r : Reg) (v : Word) : (s.wr r v).window1 = s.window1 := State.modCpu_window1 ..
@[simp] theorem State.wr_sem0 (s : State) (r : Reg) (v : Word) : (s.wr r v).sem0 = s.sem0 := State.modCpu_sem0 ..
@[simp] theorem State.wr_sem1 (s : State) (r : Reg) (v : Word) : (s.wr r v).sem1 = s.sem1 := State.modCpu_sem1 ..
@[simp] theorem State.wr_s10 (s : State) (r : Reg) (v : Word) : (s.wr r v).s10 = s.s10 := State.modCpu_s10 ..
@[simp] theorem State.wr_s11 (s : State) (r : Reg) (v : Word) : (s.wr r v).s11 = s.s11 := State.modCpu_s11 ..
@[simp] theorem State.wr_s12 (s : State) (r : Reg) (v : Word) : (s.wr r v).s12 = s.s12 := State.modCpu_s12 ..
@[simp] theorem State.wr_s14 (s : State) (r : Reg) (v : Word) : (s.wr r v).s14 = s.s14 := State.modCpu_s14 ..
@[simp] theorem State.wr_s15 (s : State) (r : Reg) (v : Word) : (s.wr r v).s15 = s.s15 := State.modCpu_s15 ..
@[simp] theorem State.wr_pend (s : State) (r : Reg) (v : Word) : (s.wr r v).pend = s.pend := State.modCpu_pend ..
@[simp] theorem State.wr_tick (s : State) (r : Reg) (v : Word) : (s.wr r v).tick = s.tick := State.modCpu_tick ..
@[simp] theorem State.wr_event (s : State) (r : Reg) (v : Word) : (s.wr r v).event = s.event := State.modCpu_event ..
@[simp] theorem State.wr_cpu (s : State) (r : Reg) (v : Word) :
    (s.wr r v).cpu = (fun u => u.writeDest (.gpr r) v) s.cpu := State.modCpu_cpu ..
theorem State.wr_pu_other (s : State) (r : Reg) (v : Word) {q : PuId} (h : q ≠ s.turn) :
    (s.wr r v).pu q = s.pu q := State.modCpu_pu_other s _ h

@[simp] theorem State.setFlags_params (s : State) (f : Flags) : (s.setFlags f).params = s.params := State.modCpu_params ..
@[simp] theorem State.setFlags_turn (s : State) (f : Flags) : (s.setFlags f).turn = s.turn := State.modCpu_turn ..
@[simp] theorem State.setFlags_inputs (s : State) (f : Flags) : (s.setFlags f).inputs = s.inputs := State.modCpu_inputs ..
@[simp] theorem State.setFlags_mem (s : State) (f : Flags) : (s.setFlags f).mem = s.mem := State.modCpu_mem ..
@[simp] theorem State.setFlags_dcache (s : State) (f : Flags) : (s.setFlags f).dcache = s.dcache := State.modCpu_dcache ..
@[simp] theorem State.setFlags_icache (s : State) (f : Flags) : (s.setFlags f).icache = s.icache := State.modCpu_icache ..
@[simp] theorem State.setFlags_stored (s : State) (f : Flags) : (s.setFlags f).stored = s.stored := State.modCpu_stored ..
@[simp] theorem State.setFlags_tlb (s : State) (f : Flags) : (s.setFlags f).tlb = s.tlb := State.modCpu_tlb ..
@[simp] theorem State.setFlags_s4 (s : State) (f : Flags) : (s.setFlags f).s4 = s.s4 := State.modCpu_s4 ..
@[simp] theorem State.setFlags_window1 (s : State) (f : Flags) : (s.setFlags f).window1 = s.window1 := State.modCpu_window1 ..
@[simp] theorem State.setFlags_sem0 (s : State) (f : Flags) : (s.setFlags f).sem0 = s.sem0 := State.modCpu_sem0 ..
@[simp] theorem State.setFlags_sem1 (s : State) (f : Flags) : (s.setFlags f).sem1 = s.sem1 := State.modCpu_sem1 ..
@[simp] theorem State.setFlags_s10 (s : State) (f : Flags) : (s.setFlags f).s10 = s.s10 := State.modCpu_s10 ..
@[simp] theorem State.setFlags_s11 (s : State) (f : Flags) : (s.setFlags f).s11 = s.s11 := State.modCpu_s11 ..
@[simp] theorem State.setFlags_s12 (s : State) (f : Flags) : (s.setFlags f).s12 = s.s12 := State.modCpu_s12 ..
@[simp] theorem State.setFlags_s14 (s : State) (f : Flags) : (s.setFlags f).s14 = s.s14 := State.modCpu_s14 ..
@[simp] theorem State.setFlags_s15 (s : State) (f : Flags) : (s.setFlags f).s15 = s.s15 := State.modCpu_s15 ..
@[simp] theorem State.setFlags_pend (s : State) (f : Flags) : (s.setFlags f).pend = s.pend := State.modCpu_pend ..
@[simp] theorem State.setFlags_tick (s : State) (f : Flags) : (s.setFlags f).tick = s.tick := State.modCpu_tick ..
@[simp] theorem State.setFlags_event (s : State) (f : Flags) : (s.setFlags f).event = s.event := State.modCpu_event ..
@[simp] theorem State.setFlags_cpu (s : State) (f : Flags) :
    (s.setFlags f).cpu = (fun u => { u with sscr := withFlags u.sscr f }) s.cpu := State.modCpu_cpu ..
theorem State.setFlags_pu_other (s : State) (f : Flags) {q : PuId} (h : q ≠ s.turn) :
    (s.setFlags f).pu q = s.pu q := State.modCpu_pu_other s _ h

@[simp] theorem State.setNZ_params (s : State) (n z : Bool) : (s.setNZ n z).params = s.params := State.modCpu_params ..
@[simp] theorem State.setNZ_turn (s : State) (n z : Bool) : (s.setNZ n z).turn = s.turn := State.modCpu_turn ..
@[simp] theorem State.setNZ_inputs (s : State) (n z : Bool) : (s.setNZ n z).inputs = s.inputs := State.modCpu_inputs ..
@[simp] theorem State.setNZ_mem (s : State) (n z : Bool) : (s.setNZ n z).mem = s.mem := State.modCpu_mem ..
@[simp] theorem State.setNZ_dcache (s : State) (n z : Bool) : (s.setNZ n z).dcache = s.dcache := State.modCpu_dcache ..
@[simp] theorem State.setNZ_icache (s : State) (n z : Bool) : (s.setNZ n z).icache = s.icache := State.modCpu_icache ..
@[simp] theorem State.setNZ_stored (s : State) (n z : Bool) : (s.setNZ n z).stored = s.stored := State.modCpu_stored ..
@[simp] theorem State.setNZ_tlb (s : State) (n z : Bool) : (s.setNZ n z).tlb = s.tlb := State.modCpu_tlb ..
@[simp] theorem State.setNZ_s4 (s : State) (n z : Bool) : (s.setNZ n z).s4 = s.s4 := State.modCpu_s4 ..
@[simp] theorem State.setNZ_window1 (s : State) (n z : Bool) : (s.setNZ n z).window1 = s.window1 := State.modCpu_window1 ..
@[simp] theorem State.setNZ_sem0 (s : State) (n z : Bool) : (s.setNZ n z).sem0 = s.sem0 := State.modCpu_sem0 ..
@[simp] theorem State.setNZ_sem1 (s : State) (n z : Bool) : (s.setNZ n z).sem1 = s.sem1 := State.modCpu_sem1 ..
@[simp] theorem State.setNZ_s10 (s : State) (n z : Bool) : (s.setNZ n z).s10 = s.s10 := State.modCpu_s10 ..
@[simp] theorem State.setNZ_s11 (s : State) (n z : Bool) : (s.setNZ n z).s11 = s.s11 := State.modCpu_s11 ..
@[simp] theorem State.setNZ_s12 (s : State) (n z : Bool) : (s.setNZ n z).s12 = s.s12 := State.modCpu_s12 ..
@[simp] theorem State.setNZ_s14 (s : State) (n z : Bool) : (s.setNZ n z).s14 = s.s14 := State.modCpu_s14 ..
@[simp] theorem State.setNZ_s15 (s : State) (n z : Bool) : (s.setNZ n z).s15 = s.s15 := State.modCpu_s15 ..
@[simp] theorem State.setNZ_pend (s : State) (n z : Bool) : (s.setNZ n z).pend = s.pend := State.modCpu_pend ..
@[simp] theorem State.setNZ_tick (s : State) (n z : Bool) : (s.setNZ n z).tick = s.tick := State.modCpu_tick ..
@[simp] theorem State.setNZ_event (s : State) (n z : Bool) : (s.setNZ n z).event = s.event := State.modCpu_event ..
@[simp] theorem State.setNZ_cpu (s : State) (n z : Bool) :
    (s.setNZ n z).cpu = (fun u => { u with sscr := setBit (setBit (setBit u.sscr 16 z) 17 n) 18 false }) s.cpu := State.modCpu_cpu ..
theorem State.setNZ_pu_other (s : State) (n z : Bool) {q : PuId} (h : q ≠ s.turn) :
    (s.setNZ n z).pu q = s.pu q := State.modCpu_pu_other s _ h

@[simp] theorem State.setNZkeepV_params (s : State) (n z : Bool) : (s.setNZkeepV n z).params = s.params := State.modCpu_params ..
@[simp] theorem State.setNZkeepV_turn (s : State) (n z : Bool) : (s.setNZkeepV n z).turn = s.turn := State.modCpu_turn ..
@[simp] theorem State.setNZkeepV_inputs (s : State) (n z : Bool) : (s.setNZkeepV n z).inputs = s.inputs := State.modCpu_inputs ..
@[simp] theorem State.setNZkeepV_mem (s : State) (n z : Bool) : (s.setNZkeepV n z).mem = s.mem := State.modCpu_mem ..
@[simp] theorem State.setNZkeepV_dcache (s : State) (n z : Bool) : (s.setNZkeepV n z).dcache = s.dcache := State.modCpu_dcache ..
@[simp] theorem State.setNZkeepV_icache (s : State) (n z : Bool) : (s.setNZkeepV n z).icache = s.icache := State.modCpu_icache ..
@[simp] theorem State.setNZkeepV_stored (s : State) (n z : Bool) : (s.setNZkeepV n z).stored = s.stored := State.modCpu_stored ..
@[simp] theorem State.setNZkeepV_tlb (s : State) (n z : Bool) : (s.setNZkeepV n z).tlb = s.tlb := State.modCpu_tlb ..
@[simp] theorem State.setNZkeepV_s4 (s : State) (n z : Bool) : (s.setNZkeepV n z).s4 = s.s4 := State.modCpu_s4 ..
@[simp] theorem State.setNZkeepV_window1 (s : State) (n z : Bool) : (s.setNZkeepV n z).window1 = s.window1 := State.modCpu_window1 ..
@[simp] theorem State.setNZkeepV_sem0 (s : State) (n z : Bool) : (s.setNZkeepV n z).sem0 = s.sem0 := State.modCpu_sem0 ..
@[simp] theorem State.setNZkeepV_sem1 (s : State) (n z : Bool) : (s.setNZkeepV n z).sem1 = s.sem1 := State.modCpu_sem1 ..
@[simp] theorem State.setNZkeepV_s10 (s : State) (n z : Bool) : (s.setNZkeepV n z).s10 = s.s10 := State.modCpu_s10 ..
@[simp] theorem State.setNZkeepV_s11 (s : State) (n z : Bool) : (s.setNZkeepV n z).s11 = s.s11 := State.modCpu_s11 ..
@[simp] theorem State.setNZkeepV_s12 (s : State) (n z : Bool) : (s.setNZkeepV n z).s12 = s.s12 := State.modCpu_s12 ..
@[simp] theorem State.setNZkeepV_s14 (s : State) (n z : Bool) : (s.setNZkeepV n z).s14 = s.s14 := State.modCpu_s14 ..
@[simp] theorem State.setNZkeepV_s15 (s : State) (n z : Bool) : (s.setNZkeepV n z).s15 = s.s15 := State.modCpu_s15 ..
@[simp] theorem State.setNZkeepV_pend (s : State) (n z : Bool) : (s.setNZkeepV n z).pend = s.pend := State.modCpu_pend ..
@[simp] theorem State.setNZkeepV_tick (s : State) (n z : Bool) : (s.setNZkeepV n z).tick = s.tick := State.modCpu_tick ..
@[simp] theorem State.setNZkeepV_event (s : State) (n z : Bool) : (s.setNZkeepV n z).event = s.event := State.modCpu_event ..
@[simp] theorem State.setNZkeepV_cpu (s : State) (n z : Bool) :
    (s.setNZkeepV n z).cpu = (fun u => { u with sscr := setBit (setBit u.sscr 16 z) 17 n }) s.cpu := State.modCpu_cpu ..
theorem State.setNZkeepV_pu_other (s : State) (n z : Bool) {q : PuId} (h : q ≠ s.turn) :
    (s.setNZkeepV n z).pu q = s.pu q := State.modCpu_pu_other s _ h

@[simp] theorem State.setCarry_params (s : State) (c : Bool) : (s.setCarry c).params = s.params := State.modCpu_params ..
@[simp] theorem State.setCarry_turn (s : State) (c : Bool) : (s.setCarry c).turn = s.turn := State.modCpu_turn ..
@[simp] theorem State.setCarry_inputs (s : State) (c : Bool) : (s.setCarry c).inputs = s.inputs := State.modCpu_inputs ..
@[simp] theorem State.setCarry_mem (s : State) (c : Bool) : (s.setCarry c).mem = s.mem := State.modCpu_mem ..
@[simp] theorem State.setCarry_dcache (s : State) (c : Bool) : (s.setCarry c).dcache = s.dcache := State.modCpu_dcache ..
@[simp] theorem State.setCarry_icache (s : State) (c : Bool) : (s.setCarry c).icache = s.icache := State.modCpu_icache ..
@[simp] theorem State.setCarry_stored (s : State) (c : Bool) : (s.setCarry c).stored = s.stored := State.modCpu_stored ..
@[simp] theorem State.setCarry_tlb (s : State) (c : Bool) : (s.setCarry c).tlb = s.tlb := State.modCpu_tlb ..
@[simp] theorem State.setCarry_s4 (s : State) (c : Bool) : (s.setCarry c).s4 = s.s4 := State.modCpu_s4 ..
@[simp] theorem State.setCarry_window1 (s : State) (c : Bool) : (s.setCarry c).window1 = s.window1 := State.modCpu_window1 ..
@[simp] theorem State.setCarry_sem0 (s : State) (c : Bool) : (s.setCarry c).sem0 = s.sem0 := State.modCpu_sem0 ..
@[simp] theorem State.setCarry_sem1 (s : State) (c : Bool) : (s.setCarry c).sem1 = s.sem1 := State.modCpu_sem1 ..
@[simp] theorem State.setCarry_s10 (s : State) (c : Bool) : (s.setCarry c).s10 = s.s10 := State.modCpu_s10 ..
@[simp] theorem State.setCarry_s11 (s : State) (c : Bool) : (s.setCarry c).s11 = s.s11 := State.modCpu_s11 ..
@[simp] theorem State.setCarry_s12 (s : State) (c : Bool) : (s.setCarry c).s12 = s.s12 := State.modCpu_s12 ..
@[simp] theorem State.setCarry_s14 (s : State) (c : Bool) : (s.setCarry c).s14 = s.s14 := State.modCpu_s14 ..
@[simp] theorem State.setCarry_s15 (s : State) (c : Bool) : (s.setCarry c).s15 = s.s15 := State.modCpu_s15 ..
@[simp] theorem State.setCarry_pend (s : State) (c : Bool) : (s.setCarry c).pend = s.pend := State.modCpu_pend ..
@[simp] theorem State.setCarry_tick (s : State) (c : Bool) : (s.setCarry c).tick = s.tick := State.modCpu_tick ..
@[simp] theorem State.setCarry_event (s : State) (c : Bool) : (s.setCarry c).event = s.event := State.modCpu_event ..
@[simp] theorem State.setCarry_cpu (s : State) (c : Bool) :
    (s.setCarry c).cpu = (fun u => { u with sscr := setBit (setBit (setBit (setBit u.sscr 19 c) 20 false) 21 false) 22 false }) s.cpu := State.modCpu_cpu ..
theorem State.setCarry_pu_other (s : State) (c : Bool) {q : PuId} (h : q ≠ s.turn) :
    (s.setCarry c).pu q = s.pu q := State.modCpu_pu_other s _ h

@[simp] theorem State.advance_params (s : State) : s.advance.params = s.params := State.modCpu_params ..
@[simp] theorem State.advance_turn (s : State) : s.advance.turn = s.turn := State.modCpu_turn ..
@[simp] theorem State.advance_inputs (s : State) : s.advance.inputs = s.inputs := State.modCpu_inputs ..
@[simp] theorem State.advance_mem (s : State) : s.advance.mem = s.mem := State.modCpu_mem ..
@[simp] theorem State.advance_dcache (s : State) : s.advance.dcache = s.dcache := State.modCpu_dcache ..
@[simp] theorem State.advance_icache (s : State) : s.advance.icache = s.icache := State.modCpu_icache ..
@[simp] theorem State.advance_stored (s : State) : s.advance.stored = s.stored := State.modCpu_stored ..
@[simp] theorem State.advance_tlb (s : State) : s.advance.tlb = s.tlb := State.modCpu_tlb ..
@[simp] theorem State.advance_s4 (s : State) : s.advance.s4 = s.s4 := State.modCpu_s4 ..
@[simp] theorem State.advance_window1 (s : State) : s.advance.window1 = s.window1 := State.modCpu_window1 ..
@[simp] theorem State.advance_sem0 (s : State) : s.advance.sem0 = s.sem0 := State.modCpu_sem0 ..
@[simp] theorem State.advance_sem1 (s : State) : s.advance.sem1 = s.sem1 := State.modCpu_sem1 ..
@[simp] theorem State.advance_s10 (s : State) : s.advance.s10 = s.s10 := State.modCpu_s10 ..
@[simp] theorem State.advance_s11 (s : State) : s.advance.s11 = s.s11 := State.modCpu_s11 ..
@[simp] theorem State.advance_s12 (s : State) : s.advance.s12 = s.s12 := State.modCpu_s12 ..
@[simp] theorem State.advance_s14 (s : State) : s.advance.s14 = s.s14 := State.modCpu_s14 ..
@[simp] theorem State.advance_s15 (s : State) : s.advance.s15 = s.s15 := State.modCpu_s15 ..
@[simp] theorem State.advance_pend (s : State) : s.advance.pend = s.pend := State.modCpu_pend ..
@[simp] theorem State.advance_tick (s : State) : s.advance.tick = s.tick := State.modCpu_tick ..
@[simp] theorem State.advance_cpu (s : State) : s.advance.cpu = s.cpu.sequential :=
  (State.cpu_with_event (s.modCpu PU.sequential) _).trans (State.modCpu_cpu s PU.sequential)
theorem State.advance_pu_other (s : State) {q : PuId} (h : q ≠ s.turn) : s.advance.pu q = s.pu q :=
  (State.pu_with_event (s.modCpu PU.sequential) _ q).trans (State.modCpu_pu_other s PU.sequential h)

@[simp] theorem State.advanceExtended_params (s : State) : s.advanceExtended.params = s.params := State.modCpu_params ..
@[simp] theorem State.advanceExtended_turn (s : State) : s.advanceExtended.turn = s.turn := State.modCpu_turn ..
@[simp] theorem State.advanceExtended_inputs (s : State) : s.advanceExtended.inputs = s.inputs := State.modCpu_inputs ..
@[simp] theorem State.advanceExtended_mem (s : State) : s.advanceExtended.mem = s.mem := State.modCpu_mem ..
@[simp] theorem State.advanceExtended_dcache (s : State) : s.advanceExtended.dcache = s.dcache := State.modCpu_dcache ..
@[simp] theorem State.advanceExtended_icache (s : State) : s.advanceExtended.icache = s.icache := State.modCpu_icache ..
@[simp] theorem State.advanceExtended_stored (s : State) : s.advanceExtended.stored = s.stored := State.modCpu_stored ..
@[simp] theorem State.advanceExtended_tlb (s : State) : s.advanceExtended.tlb = s.tlb := State.modCpu_tlb ..
@[simp] theorem State.advanceExtended_s4 (s : State) : s.advanceExtended.s4 = s.s4 := State.modCpu_s4 ..
@[simp] theorem State.advanceExtended_window1 (s : State) : s.advanceExtended.window1 = s.window1 := State.modCpu_window1 ..
@[simp] theorem State.advanceExtended_sem0 (s : State) : s.advanceExtended.sem0 = s.sem0 := State.modCpu_sem0 ..
@[simp] theorem State.advanceExtended_sem1 (s : State) : s.advanceExtended.sem1 = s.sem1 := State.modCpu_sem1 ..
@[simp] theorem State.advanceExtended_s10 (s : State) : s.advanceExtended.s10 = s.s10 := State.modCpu_s10 ..
@[simp] theorem State.advanceExtended_s11 (s : State) : s.advanceExtended.s11 = s.s11 := State.modCpu_s11 ..
@[simp] theorem State.advanceExtended_s12 (s : State) : s.advanceExtended.s12 = s.s12 := State.modCpu_s12 ..
@[simp] theorem State.advanceExtended_s14 (s : State) : s.advanceExtended.s14 = s.s14 := State.modCpu_s14 ..
@[simp] theorem State.advanceExtended_s15 (s : State) : s.advanceExtended.s15 = s.s15 := State.modCpu_s15 ..
@[simp] theorem State.advanceExtended_pend (s : State) : s.advanceExtended.pend = s.pend := State.modCpu_pend ..
@[simp] theorem State.advanceExtended_tick (s : State) : s.advanceExtended.tick = s.tick := State.modCpu_tick ..
@[simp] theorem State.advanceExtended_cpu (s : State) : s.advanceExtended.cpu = s.cpu.sequentialExtended :=
  (State.cpu_with_event (s.modCpu PU.sequentialExtended) _).trans (State.modCpu_cpu s PU.sequentialExtended)
theorem State.advanceExtended_pu_other (s : State) {q : PuId} (h : q ≠ s.turn) : s.advanceExtended.pu q = s.pu q :=
  (State.pu_with_event (s.modCpu PU.sequentialExtended) _ q).trans (State.modCpu_pu_other s PU.sequentialExtended h)

@[simp] theorem State.advance_event (s : State) : s.advance.event = .finished := rfl
@[simp] theorem State.advanceExtended_event (s : State) : s.advanceExtended.event = .finishedExtended := rfl
@[simp] theorem State.stay_params (s : State) : s.stay.params = s.params := rfl
@[simp] theorem State.stay_turn (s : State) : s.stay.turn = s.turn := rfl
@[simp] theorem State.stay_inputs (s : State) : s.stay.inputs = s.inputs := rfl
@[simp] theorem State.stay_mem (s : State) : s.stay.mem = s.mem := rfl
@[simp] theorem State.stay_dcache (s : State) : s.stay.dcache = s.dcache := rfl
@[simp] theorem State.stay_icache (s : State) : s.stay.icache = s.icache := rfl
@[simp] theorem State.stay_stored (s : State) : s.stay.stored = s.stored := rfl
@[simp] theorem State.stay_tlb (s : State) : s.stay.tlb = s.tlb := rfl
@[simp] theorem State.stay_s4 (s : State) : s.stay.s4 = s.s4 := rfl
@[simp] theorem State.stay_window1 (s : State) : s.stay.window1 = s.window1 := rfl
@[simp] theorem State.stay_sem0 (s : State) : s.stay.sem0 = s.sem0 := rfl
@[simp] theorem State.stay_sem1 (s : State) : s.stay.sem1 = s.sem1 := rfl
@[simp] theorem State.stay_s10 (s : State) : s.stay.s10 = s.s10 := rfl
@[simp] theorem State.stay_s11 (s : State) : s.stay.s11 = s.s11 := rfl
@[simp] theorem State.stay_s12 (s : State) : s.stay.s12 = s.s12 := rfl
@[simp] theorem State.stay_s14 (s : State) : s.stay.s14 = s.s14 := rfl
@[simp] theorem State.stay_s15 (s : State) : s.stay.s15 = s.s15 := rfl
@[simp] theorem State.stay_pend (s : State) : s.stay.pend = s.pend := rfl
@[simp] theorem State.stay_tick (s : State) : s.stay.tick = s.tick := rfl
@[simp] theorem State.stay_pu (s : State) (p : PuId) : s.stay.pu p = s.pu p := by
  cases p <;> rfl
@[simp] theorem State.stay_cpu (s : State) : s.stay.cpu = s.cpu := State.stay_pu s s.turn

/-! ### A PU after its operations -/

@[simp] theorem PU.withBit_regs (u : PU) (i : Nat) (b : Bool) : (u.withBit i b).regs = u.regs := rfl
@[simp] theorem PU.withBit_pc (u : PU) (i : Nat) (b : Bool) : (u.withBit i b).pc = u.pc := rfl
@[simp] theorem PU.withBit_npc (u : PU) (i : Nat) (b : Bool) : (u.withBit i b).npc = u.npc := rfl
@[simp] theorem PU.withBit_mask (u : PU) (i : Nat) (b : Bool) : (u.withBit i b).mask = u.mask := rfl
@[simp] theorem PU.withBit_remainder (u : PU) (i : Nat) (b : Bool) : (u.withBit i b).remainder = u.remainder := rfl
@[simp] theorem PU.withBit_product (u : PU) (i : Nat) (b : Bool) : (u.withBit i b).product = u.product := rfl
@[simp] theorem PU.withBit_statusSave (u : PU) (i : Nat) (b : Bool) : (u.withBit i b).statusSave = u.statusSave := rfl
@[simp] theorem PU.withBit_trapArg (u : PU) (i : Nat) (b : Bool) : (u.withBit i b).trapArg = u.trapArg := rfl
@[simp] theorem PU.withBit_qHead (u : PU) (i : Nat) (b : Bool) : (u.withBit i b).qHead = u.qHead := rfl
@[simp] theorem PU.withBit_qTail (u : PU) (i : Nat) (b : Bool) : (u.withBit i b).qTail = u.qTail := rfl
@[simp] theorem PU.withBit_rti1 (u : PU) (i : Nat) (b : Bool) : (u.withBit i b).rti1 = u.rti1 := rfl
@[simp] theorem PU.withBit_waitSem (u : PU) (i : Nat) (b : Bool) : (u.withBit i b).waitSem = u.waitSem := rfl
@[simp] theorem PU.withBit_run (u : PU) (i : Nat) (b : Bool) : (u.withBit i b).run = u.run := rfl
@[simp] theorem PU.withBit_waitMask (u : PU) (i : Nat) (b : Bool) : (u.withBit i b).waitMask = u.waitMask := rfl
@[simp] theorem PU.withBit_pendInter (u : PU) (i : Nat) (b : Bool) : (u.withBit i b).pendInter = u.pendInter := rfl
@[simp] theorem PU.withBit_pendRestart (u : PU) (i : Nat) (b : Bool) : (u.withBit i b).pendRestart = u.pendRestart := rfl
@[simp] theorem PU.withBit_inflight (u : PU) (i : Nat) (b : Bool) : (u.withBit i b).inflight = u.inflight := rfl
@[simp] theorem PU.withBit_afterBranch (u : PU) (i : Nat) (b : Bool) : (u.withBit i b).afterBranch = u.afterBranch := rfl
@[simp] theorem PU.withBit_waitEnded (u : PU) (i : Nat) (b : Bool) : (u.withBit i b).waitEnded = u.waitEnded := rfl
@[simp] theorem PU.withRCnt_regs (u : PU) (k : BitVec 4) : (u.withRCnt k).regs = u.regs := rfl
@[simp] theorem PU.withRCnt_pc (u : PU) (k : BitVec 4) : (u.withRCnt k).pc = u.pc := rfl
@[simp] theorem PU.withRCnt_npc (u : PU) (k : BitVec 4) : (u.withRCnt k).npc = u.npc := rfl
@[simp] theorem PU.withRCnt_mask (u : PU) (k : BitVec 4) : (u.withRCnt k).mask = u.mask := rfl
@[simp] theorem PU.withRCnt_remainder (u : PU) (k : BitVec 4) : (u.withRCnt k).remainder = u.remainder := rfl
@[simp] theorem PU.withRCnt_product (u : PU) (k : BitVec 4) : (u.withRCnt k).product = u.product := rfl
@[simp] theorem PU.withRCnt_statusSave (u : PU) (k : BitVec 4) : (u.withRCnt k).statusSave = u.statusSave := rfl
@[simp] theorem PU.withRCnt_trapArg (u : PU) (k : BitVec 4) : (u.withRCnt k).trapArg = u.trapArg := rfl
@[simp] theorem PU.withRCnt_qHead (u : PU) (k : BitVec 4) : (u.withRCnt k).qHead = u.qHead := rfl
@[simp] theorem PU.withRCnt_qTail (u : PU) (k : BitVec 4) : (u.withRCnt k).qTail = u.qTail := rfl
@[simp] theorem PU.withRCnt_rti1 (u : PU) (k : BitVec 4) : (u.withRCnt k).rti1 = u.rti1 := rfl
@[simp] theorem PU.withRCnt_waitSem (u : PU) (k : BitVec 4) : (u.withRCnt k).waitSem = u.waitSem := rfl
@[simp] theorem PU.withRCnt_run (u : PU) (k : BitVec 4) : (u.withRCnt k).run = u.run := rfl
@[simp] theorem PU.withRCnt_waitMask (u : PU) (k : BitVec 4) : (u.withRCnt k).waitMask = u.waitMask := rfl
@[simp] theorem PU.withRCnt_pendInter (u : PU) (k : BitVec 4) : (u.withRCnt k).pendInter = u.pendInter := rfl
@[simp] theorem PU.withRCnt_pendRestart (u : PU) (k : BitVec 4) : (u.withRCnt k).pendRestart = u.pendRestart := rfl
@[simp] theorem PU.withRCnt_inflight (u : PU) (k : BitVec 4) : (u.withRCnt k).inflight = u.inflight := rfl
@[simp] theorem PU.withRCnt_afterBranch (u : PU) (k : BitVec 4) : (u.withRCnt k).afterBranch = u.afterBranch := rfl
@[simp] theorem PU.withRCnt_waitEnded (u : PU) (k : BitVec 4) : (u.withRCnt k).waitEnded = u.waitEnded := rfl
@[simp] theorem PU.spoil_regs (u : PU) (d : Dest) : (u.spoil d).regs = u.regs := rfl
@[simp] theorem PU.spoil_pc (u : PU) (d : Dest) : (u.spoil d).pc = u.pc := rfl
@[simp] theorem PU.spoil_npc (u : PU) (d : Dest) : (u.spoil d).npc = u.npc := rfl
@[simp] theorem PU.spoil_sscr (u : PU) (d : Dest) : (u.spoil d).sscr = u.sscr := rfl
@[simp] theorem PU.spoil_mask (u : PU) (d : Dest) : (u.spoil d).mask = u.mask := rfl
@[simp] theorem PU.spoil_remainder (u : PU) (d : Dest) : (u.spoil d).remainder = u.remainder := rfl
@[simp] theorem PU.spoil_product (u : PU) (d : Dest) : (u.spoil d).product = u.product := rfl
@[simp] theorem PU.spoil_statusSave (u : PU) (d : Dest) : (u.spoil d).statusSave = u.statusSave := rfl
@[simp] theorem PU.spoil_trapArg (u : PU) (d : Dest) : (u.spoil d).trapArg = u.trapArg := rfl
@[simp] theorem PU.spoil_qHead (u : PU) (d : Dest) : (u.spoil d).qHead = u.qHead := rfl
@[simp] theorem PU.spoil_qTail (u : PU) (d : Dest) : (u.spoil d).qTail = u.qTail := rfl
@[simp] theorem PU.spoil_rti1 (u : PU) (d : Dest) : (u.spoil d).rti1 = u.rti1 := rfl
@[simp] theorem PU.spoil_waitSem (u : PU) (d : Dest) : (u.spoil d).waitSem = u.waitSem := rfl
@[simp] theorem PU.spoil_run (u : PU) (d : Dest) : (u.spoil d).run = u.run := rfl
@[simp] theorem PU.spoil_waitMask (u : PU) (d : Dest) : (u.spoil d).waitMask = u.waitMask := rfl
@[simp] theorem PU.spoil_pendInter (u : PU) (d : Dest) : (u.spoil d).pendInter = u.pendInter := rfl
@[simp] theorem PU.spoil_pendRestart (u : PU) (d : Dest) : (u.spoil d).pendRestart = u.pendRestart := rfl
@[simp] theorem PU.spoil_afterBranch (u : PU) (d : Dest) : (u.spoil d).afterBranch = u.afterBranch := rfl
@[simp] theorem PU.spoil_waitEnded (u : PU) (d : Dest) : (u.spoil d).waitEnded = u.waitEnded := rfl
@[simp] theorem PU.issue_regs (u : PU) (ds : List Dest) (n : Nat) : (u.issue ds n).regs = u.regs := rfl
@[simp] theorem PU.issue_pc (u : PU) (ds : List Dest) (n : Nat) : (u.issue ds n).pc = u.pc := rfl
@[simp] theorem PU.issue_npc (u : PU) (ds : List Dest) (n : Nat) : (u.issue ds n).npc = u.npc := rfl
@[simp] theorem PU.issue_sscr (u : PU) (ds : List Dest) (n : Nat) : (u.issue ds n).sscr = u.sscr := rfl
@[simp] theorem PU.issue_mask (u : PU) (ds : List Dest) (n : Nat) : (u.issue ds n).mask = u.mask := rfl
@[simp] theorem PU.issue_remainder (u : PU) (ds : List Dest) (n : Nat) : (u.issue ds n).remainder = u.remainder := rfl
@[simp] theorem PU.issue_product (u : PU) (ds : List Dest) (n : Nat) : (u.issue ds n).product = u.product := rfl
@[simp] theorem PU.issue_statusSave (u : PU) (ds : List Dest) (n : Nat) : (u.issue ds n).statusSave = u.statusSave := rfl
@[simp] theorem PU.issue_trapArg (u : PU) (ds : List Dest) (n : Nat) : (u.issue ds n).trapArg = u.trapArg := rfl
@[simp] theorem PU.issue_qHead (u : PU) (ds : List Dest) (n : Nat) : (u.issue ds n).qHead = u.qHead := rfl
@[simp] theorem PU.issue_qTail (u : PU) (ds : List Dest) (n : Nat) : (u.issue ds n).qTail = u.qTail := rfl
@[simp] theorem PU.issue_rti1 (u : PU) (ds : List Dest) (n : Nat) : (u.issue ds n).rti1 = u.rti1 := rfl
@[simp] theorem PU.issue_waitSem (u : PU) (ds : List Dest) (n : Nat) : (u.issue ds n).waitSem = u.waitSem := rfl
@[simp] theorem PU.issue_run (u : PU) (ds : List Dest) (n : Nat) : (u.issue ds n).run = u.run := rfl
@[simp] theorem PU.issue_waitMask (u : PU) (ds : List Dest) (n : Nat) : (u.issue ds n).waitMask = u.waitMask := rfl
@[simp] theorem PU.issue_pendInter (u : PU) (ds : List Dest) (n : Nat) : (u.issue ds n).pendInter = u.pendInter := rfl
@[simp] theorem PU.issue_pendRestart (u : PU) (ds : List Dest) (n : Nat) : (u.issue ds n).pendRestart = u.pendRestart := rfl
@[simp] theorem PU.issue_afterBranch (u : PU) (ds : List Dest) (n : Nat) : (u.issue ds n).afterBranch = u.afterBranch := rfl
@[simp] theorem PU.issue_waitEnded (u : PU) (ds : List Dest) (n : Nat) : (u.issue ds n).waitEnded = u.waitEnded := rfl
@[simp] theorem PU.withBit_sscr (u : PU) (i : Nat) (b : Bool) : (u.withBit i b).sscr = setBit u.sscr i b := rfl
@[simp] theorem PU.putDest_pc (u : PU) (d : Dest) (v : Word) : (u.putDest d v).pc = u.pc := by
  cases d <;> rfl
@[simp] theorem PU.writeDest_pc (u : PU) (d : Dest) (v : Word) : (u.writeDest d v).pc = u.pc := by
  cases d <;> rfl
@[simp] theorem PU.putDest_npc (u : PU) (d : Dest) (v : Word) : (u.putDest d v).npc = u.npc := by
  cases d <;> rfl
@[simp] theorem PU.writeDest_npc (u : PU) (d : Dest) (v : Word) : (u.writeDest d v).npc = u.npc := by
  cases d <;> rfl
@[simp] theorem PU.putDest_sscr (u : PU) (d : Dest) (v : Word) : (u.putDest d v).sscr = u.sscr := by
  cases d <;> rfl
@[simp] theorem PU.writeDest_sscr (u : PU) (d : Dest) (v : Word) : (u.writeDest d v).sscr = u.sscr := by
  cases d <;> rfl
@[simp] theorem PU.putDest_mask (u : PU) (d : Dest) (v : Word) : (u.putDest d v).mask = u.mask := by
  cases d <;> rfl
@[simp] theorem PU.writeDest_mask (u : PU) (d : Dest) (v : Word) : (u.writeDest d v).mask = u.mask := by
  cases d <;> rfl
@[simp] theorem PU.putDest_statusSave (u : PU) (d : Dest) (v : Word) : (u.putDest d v).statusSave = u.statusSave := by
  cases d <;> rfl
@[simp] theorem PU.writeDest_statusSave (u : PU) (d : Dest) (v : Word) : (u.writeDest d v).statusSave = u.statusSave := by
  cases d <;> rfl
@[simp] theorem PU.putDest_trapArg (u : PU) (d : Dest) (v : Word) : (u.putDest d v).trapArg = u.trapArg := by
  cases d <;> rfl
@[simp] theorem PU.writeDest_trapArg (u : PU) (d : Dest) (v : Word) : (u.writeDest d v).trapArg = u.trapArg := by
  cases d <;> rfl
@[simp] theorem PU.putDest_qHead (u : PU) (d : Dest) (v : Word) : (u.putDest d v).qHead = u.qHead := by
  cases d <;> rfl
@[simp] theorem PU.writeDest_qHead (u : PU) (d : Dest) (v : Word) : (u.writeDest d v).qHead = u.qHead := by
  cases d <;> rfl
@[simp] theorem PU.putDest_qTail (u : PU) (d : Dest) (v : Word) : (u.putDest d v).qTail = u.qTail := by
  cases d <;> rfl
@[simp] theorem PU.writeDest_qTail (u : PU) (d : Dest) (v : Word) : (u.writeDest d v).qTail = u.qTail := by
  cases d <;> rfl
@[simp] theorem PU.putDest_rti1 (u : PU) (d : Dest) (v : Word) : (u.putDest d v).rti1 = u.rti1 := by
  cases d <;> rfl
@[simp] theorem PU.writeDest_rti1 (u : PU) (d : Dest) (v : Word) : (u.writeDest d v).rti1 = u.rti1 := by
  cases d <;> rfl
@[simp] theorem PU.putDest_waitSem (u : PU) (d : Dest) (v : Word) : (u.putDest d v).waitSem = u.waitSem := by
  cases d <;> rfl
@[simp] theorem PU.writeDest_waitSem (u : PU) (d : Dest) (v : Word) : (u.writeDest d v).waitSem = u.waitSem := by
  cases d <;> rfl
@[simp] theorem PU.putDest_run (u : PU) (d : Dest) (v : Word) : (u.putDest d v).run = u.run := by
  cases d <;> rfl
@[simp] theorem PU.writeDest_run (u : PU) (d : Dest) (v : Word) : (u.writeDest d v).run = u.run := by
  cases d <;> rfl
@[simp] theorem PU.putDest_waitMask (u : PU) (d : Dest) (v : Word) : (u.putDest d v).waitMask = u.waitMask := by
  cases d <;> rfl
@[simp] theorem PU.writeDest_waitMask (u : PU) (d : Dest) (v : Word) : (u.writeDest d v).waitMask = u.waitMask := by
  cases d <;> rfl
@[simp] theorem PU.putDest_pendInter (u : PU) (d : Dest) (v : Word) : (u.putDest d v).pendInter = u.pendInter := by
  cases d <;> rfl
@[simp] theorem PU.writeDest_pendInter (u : PU) (d : Dest) (v : Word) : (u.writeDest d v).pendInter = u.pendInter := by
  cases d <;> rfl
@[simp] theorem PU.putDest_pendRestart (u : PU) (d : Dest) (v : Word) : (u.putDest d v).pendRestart = u.pendRestart := by
  cases d <;> rfl
@[simp] theorem PU.writeDest_pendRestart (u : PU) (d : Dest) (v : Word) : (u.writeDest d v).pendRestart = u.pendRestart := by
  cases d <;> rfl
@[simp] theorem PU.putDest_inflight (u : PU) (d : Dest) (v : Word) : (u.putDest d v).inflight = u.inflight := by
  cases d <;> rfl
@[simp] theorem PU.putDest_afterBranch (u : PU) (d : Dest) (v : Word) : (u.putDest d v).afterBranch = u.afterBranch := by
  cases d <;> rfl
@[simp] theorem PU.writeDest_afterBranch (u : PU) (d : Dest) (v : Word) : (u.writeDest d v).afterBranch = u.afterBranch := by
  cases d <;> rfl
@[simp] theorem PU.putDest_waitEnded (u : PU) (d : Dest) (v : Word) : (u.putDest d v).waitEnded = u.waitEnded := by
  cases d <;> rfl
@[simp] theorem PU.writeDest_waitEnded (u : PU) (d : Dest) (v : Word) : (u.writeDest d v).waitEnded = u.waitEnded := by
  cases d <;> rfl
@[simp] theorem PU.writeDest_inflight (u : PU) (d : Dest) (v : Word) :
    (u.writeDest d v).inflight = (u.spoil d).inflight := by
  cases d <;> rfl
@[simp] theorem PU.sequential_regs (u : PU) : u.sequential.regs = u.regs := rfl
@[simp] theorem PU.sequential_pc (u : PU) : u.sequential.pc = u.npc := rfl
@[simp] theorem PU.sequential_npc (u : PU) : u.sequential.npc = pcAdd u.npc 1 := rfl
@[simp] theorem PU.sequential_sscr (u : PU) : u.sequential.sscr = u.sscr := rfl
@[simp] theorem PU.sequential_mask (u : PU) : u.sequential.mask = u.mask := rfl
@[simp] theorem PU.sequential_remainder (u : PU) : u.sequential.remainder = u.remainder := rfl
@[simp] theorem PU.sequential_product (u : PU) : u.sequential.product = u.product := rfl
@[simp] theorem PU.sequential_statusSave (u : PU) : u.sequential.statusSave = u.statusSave := rfl
@[simp] theorem PU.sequential_trapArg (u : PU) : u.sequential.trapArg = u.trapArg := rfl
@[simp] theorem PU.sequential_qHead (u : PU) : u.sequential.qHead = u.qHead := rfl
@[simp] theorem PU.sequential_qTail (u : PU) : u.sequential.qTail = u.qTail := rfl
@[simp] theorem PU.sequential_rti1 (u : PU) : u.sequential.rti1 = u.rti1 := rfl
@[simp] theorem PU.sequential_waitSem (u : PU) : u.sequential.waitSem = none := rfl
@[simp] theorem PU.sequential_run (u : PU) : u.sequential.run = none := rfl
@[simp] theorem PU.sequential_waitMask (u : PU) : u.sequential.waitMask = u.waitMask := rfl
@[simp] theorem PU.sequential_pendInter (u : PU) : u.sequential.pendInter = u.pendInter := rfl
@[simp] theorem PU.sequential_pendRestart (u : PU) : u.sequential.pendRestart = u.pendRestart := rfl
@[simp] theorem PU.sequential_inflight (u : PU) : u.sequential.inflight = u.inflight := rfl
@[simp] theorem PU.sequential_afterBranch (u : PU) : u.sequential.afterBranch = false := rfl
@[simp] theorem PU.sequential_waitEnded (u : PU) : u.sequential.waitEnded = u.waitEnded := rfl
@[simp] theorem PU.sequentialExtended_regs (u : PU) : u.sequentialExtended.regs = u.regs := rfl
@[simp] theorem PU.sequentialExtended_pc (u : PU) : u.sequentialExtended.pc = pcAdd u.npc 1 := rfl
@[simp] theorem PU.sequentialExtended_npc (u : PU) : u.sequentialExtended.npc = pcAdd u.npc 2 := rfl
@[simp] theorem PU.sequentialExtended_sscr (u : PU) : u.sequentialExtended.sscr = u.sscr := rfl
@[simp] theorem PU.sequentialExtended_mask (u : PU) : u.sequentialExtended.mask = u.mask := rfl
@[simp] theorem PU.sequentialExtended_remainder (u : PU) : u.sequentialExtended.remainder = u.remainder := rfl
@[simp] theorem PU.sequentialExtended_product (u : PU) : u.sequentialExtended.product = u.product := rfl
@[simp] theorem PU.sequentialExtended_statusSave (u : PU) : u.sequentialExtended.statusSave = u.statusSave := rfl
@[simp] theorem PU.sequentialExtended_trapArg (u : PU) : u.sequentialExtended.trapArg = u.trapArg := rfl
@[simp] theorem PU.sequentialExtended_qHead (u : PU) : u.sequentialExtended.qHead = u.qHead := rfl
@[simp] theorem PU.sequentialExtended_qTail (u : PU) : u.sequentialExtended.qTail = u.qTail := rfl
@[simp] theorem PU.sequentialExtended_rti1 (u : PU) : u.sequentialExtended.rti1 = u.rti1 := rfl
@[simp] theorem PU.sequentialExtended_waitSem (u : PU) : u.sequentialExtended.waitSem = none := rfl
@[simp] theorem PU.sequentialExtended_run (u : PU) : u.sequentialExtended.run = none := rfl
@[simp] theorem PU.sequentialExtended_waitMask (u : PU) : u.sequentialExtended.waitMask = u.waitMask := rfl
@[simp] theorem PU.sequentialExtended_pendInter (u : PU) : u.sequentialExtended.pendInter = u.pendInter := rfl
@[simp] theorem PU.sequentialExtended_pendRestart (u : PU) : u.sequentialExtended.pendRestart = u.pendRestart := rfl
@[simp] theorem PU.sequentialExtended_inflight (u : PU) : u.sequentialExtended.inflight = u.inflight := rfl
@[simp] theorem PU.sequentialExtended_afterBranch (u : PU) : u.sequentialExtended.afterBranch = false := rfl
@[simp] theorem PU.sequentialExtended_waitEnded (u : PU) : u.sequentialExtended.waitEnded = u.waitEnded := rfl
@[simp] theorem PU.transfer_regs (u : PU) (t : HAddr) : (u.transfer t).regs = u.regs := rfl
@[simp] theorem PU.transfer_pc (u : PU) (t : HAddr) : (u.transfer t).pc = u.npc := rfl
@[simp] theorem PU.transfer_npc (u : PU) (t : HAddr) : (u.transfer t).npc = t := rfl
@[simp] theorem PU.transfer_sscr (u : PU) (t : HAddr) : (u.transfer t).sscr = u.sscr := rfl
@[simp] theorem PU.transfer_mask (u : PU) (t : HAddr) : (u.transfer t).mask = u.mask := rfl
@[simp] theorem PU.transfer_remainder (u : PU) (t : HAddr) : (u.transfer t).remainder = u.remainder := rfl
@[simp] theorem PU.transfer_product (u : PU) (t : HAddr) : (u.transfer t).product = u.product := rfl
@[simp] theorem PU.transfer_statusSave (u : PU) (t : HAddr) : (u.transfer t).statusSave = u.statusSave := rfl
@[simp] theorem PU.transfer_trapArg (u : PU) (t : HAddr) : (u.transfer t).trapArg = u.trapArg := rfl
@[simp] theorem PU.transfer_qHead (u : PU) (t : HAddr) : (u.transfer t).qHead = u.qHead := rfl
@[simp] theorem PU.transfer_qTail (u : PU) (t : HAddr) : (u.transfer t).qTail = u.qTail := rfl
@[simp] theorem PU.transfer_rti1 (u : PU) (t : HAddr) : (u.transfer t).rti1 = u.rti1 := rfl
@[simp] theorem PU.transfer_waitSem (u : PU) (t : HAddr) : (u.transfer t).waitSem = none := rfl
@[simp] theorem PU.transfer_run (u : PU) (t : HAddr) : (u.transfer t).run = none := rfl
@[simp] theorem PU.transfer_waitMask (u : PU) (t : HAddr) : (u.transfer t).waitMask = u.waitMask := rfl
@[simp] theorem PU.transfer_pendInter (u : PU) (t : HAddr) : (u.transfer t).pendInter = u.pendInter := rfl
@[simp] theorem PU.transfer_pendRestart (u : PU) (t : HAddr) : (u.transfer t).pendRestart = u.pendRestart := rfl
@[simp] theorem PU.transfer_inflight (u : PU) (t : HAddr) : (u.transfer t).inflight = u.inflight := rfl
@[simp] theorem PU.transfer_afterBranch (u : PU) (t : HAddr) : (u.transfer t).afterBranch = true := rfl
@[simp] theorem PU.transfer_waitEnded (u : PU) (t : HAddr) : (u.transfer t).waitEnded = u.waitEnded := rfl

@[simp] theorem PU.getDest_putDest (u : PU) (d : Dest) (v : Word) : (u.putDest d v).getDest d = v := by
  cases d <;> simp [PU.putDest, PU.getDest, PU.reg]
theorem PU.getDest_putDest_other (u : PU) {d e : Dest} (v : Word) (h : e ≠ d) :
    (u.putDest d v).getDest e = u.getDest e := by
  cases d <;> cases e <;> simp [PU.putDest, PU.getDest, PU.reg] at h ⊢
  rename_i r q
  rw [Vector.getElem_set_ne]
  intro hr
  exact h (Fin.ext hr).symm
@[simp] theorem PU.getDest_spoil (u : PU) (d e : Dest) : (u.spoil d).getDest e = u.getDest e := by
  cases e <;> rfl
@[simp] theorem PU.busy_spoil (u : PU) (d e : Dest) : (u.spoil d).busy e = u.busy e := by
  simp only [PU.busy, PU.spoil, List.any_map]
  congr 1
  funext x
  simp only [Function.comp]
  split <;> rfl
@[simp] theorem PU.busy_putDest (u : PU) (d e : Dest) (v : Word) : (u.putDest d v).busy e = u.busy e := by
  simp [PU.busy]
@[simp] theorem PU.busy_writeDest (u : PU) (d e : Dest) (v : Word) : (u.writeDest d v).busy e = u.busy e := by
  simp [PU.writeDest]
@[simp] theorem PU.writeDest_get (u : PU) (r : Reg) (v : Word) :
    (u.writeDest (.gpr r) v).reg r = v :=
  PU.getDest_putDest (u.spoil (.gpr r)) (.gpr r) v
theorem PU.writeDest_get_other (u : PU) {r q : Reg} (v : Word) (h : q ≠ r) :
    (u.writeDest (.gpr r) v).reg q = u.reg q :=
  (PU.getDest_putDest_other (u.spoil (.gpr r)) v (e := .gpr q) (by simpa using h)).trans
    (PU.getDest_spoil u (.gpr r) (.gpr q))
@[simp] theorem PU.writeDest_gpr_remainder (u : PU) (r : Reg) (v : Word) :
    (u.writeDest (.gpr r) v).remainder = u.remainder := rfl
@[simp] theorem PU.writeDest_gpr_product (u : PU) (r : Reg) (v : Word) :
    (u.writeDest (.gpr r) v).product = u.product := rfl

/-! ### Bits of a word -/

theorem setBit_getLsbD (w : Word) (i j : Nat) (b : Bool) (hi : i < 32) :
    (setBit w i b).getLsbD j = if j = i then b else w.getLsbD j := by
  unfold setBit
  by_cases hj : j < 32
  · cases b
    · by_cases h : j = i
      · subst h; simp [hj]
      · simp only [Bool.false_eq_true, if_false, BitVec.getLsbD_and, BitVec.getLsbD_not, if_neg h, hj,
          decide_true, Bool.true_and]
        have : ((1#32 <<< i).getLsbD j) = false := by
          simp [BitVec.getLsbD_shiftLeft, BitVec.getLsbD_one]
          omega
        simp [this]
    · by_cases h : j = i
      · subst h; simp [BitVec.getLsbD_shiftLeft, hj]
      · have : ((1#32 <<< i).getLsbD j) = false := by
          simp [BitVec.getLsbD_shiftLeft, BitVec.getLsbD_one]
          omega
        simp [this, h]
  · have h1 : j ≠ i := by omega
    have h2 : 32 ≤ j := by omega
    simp [h1, BitVec.getLsbD_of_ge _ _ h2]

@[simp] theorem setBit_same (w : Word) (i : Nat) (b : Bool) (hi : i < 32) :
    (setBit w i b).getLsbD i = b := by
  simp [setBit_getLsbD w i i b hi]

end Sys2Proof.Machine
end

