-- ==== Sys2Proof/Laws/Access.lean ====
section
/-! SUPPORT. What the operations over memory and the caches do: every one keeps the canonical form, and an
access changes memory only by the line it replaces and the bytes it stores. -/

namespace Sys2Proof.Machine

/-! ### Lines -/

theorem restoreLine_wf {m : Memory} (h : memoryWf m) (base : PAddr) (b : Option (List Byte)) :
    memoryWf (restoreLine m base b) := by
  cases b with
  | none => exact h
  | some bytes => exact writeBytes_wf h _ _

@[simp] theorem CacheLine.onHit_load (e : CacheLine) (pa : PAddr) (c : List Byte) :
    e.onHit pa false c = e := rfl
@[simp] theorem CacheLine.onHit_valid (e : CacheLine) (pa : PAddr) (st : Bool) (c : List Byte) :
    (e.onHit pa st c).valid = e.valid := by cases st <;> rfl
@[simp] theorem CacheLine.onHit_base (e : CacheLine) (pa : PAddr) (st : Bool) (c : List Byte) :
    (e.onHit pa st c).base = e.base := by cases st <;> rfl
@[simp] theorem CacheLine.onHit_dirty (e : CacheLine) (pa : PAddr) (st : Bool) (c : List Byte) :
    (e.onHit pa st c).dirty = (st || e.dirty) := by cases st <;> rfl
@[simp] theorem CacheLine.filled_unstored (d : PageDesc) (base : PAddr) (st : Bool) (c : List Byte) :
    (CacheLine.filled d base st c).unstored = 0 := rfl
@[simp] theorem CacheLine.invalidated_valid (e : CacheLine) : e.invalidated.valid = false := rfl

/-- A store marks its own word stored and no other. -/
theorem CacheLine.unstoredAfter_getLsbD (e : CacheLine) (pa : PAddr) {k : Nat} (hk : k < 16) :
    (e.unstoredAfter pa).getLsbD k =
      (e.unstored.getLsbD k && !decide (k = (pa.toNat - e.base.toNat) / 4)) := by
  generalize hj : (pa.toNat - e.base.toNat) / 4 = j
  have h : (1#16 <<< j).getLsbD k = decide (k = j) := by
    simp only [BitVec.getLsbD_shiftLeft, BitVec.getLsbD_one, hk]
    by_cases h : k = j
    · simp [h]
    · simp only [h]; simp; omega
  simp only [unstoredAfter, hj, BitVec.getLsbD_and, BitVec.getLsbD_not, h, hk, decide_true, Bool.true_and]

/-- Bit k of `allWords` stands for word k of a line. -/
theorem State.allWords_getLsbD (s : State) {k : Nat} (hk : k < 16) :
    s.allWords.getLsbD k = decide (4 * k < s.lineBytes) := by
  have h : 4 * k < s.lineBytes ↔ k < s.lineBytes / 4 := by unfold lineBytes; omega
  rw [allWords, BitVec.getLsbD_ofNat, Nat.testBit_two_pow_sub_one]
  simp [hk, h]

/-- A line with no unstored word is written back whole. -/
theorem CacheLine.writtenBack_of_stored {e : CacheLine} (m : Memory) (hd : e.dirty = true)
    (hu : e.unstored = 0) : e.writtenBack m = none := by simp [writtenBack, hd, hu]

theorem CacheLine.writtenBack_of_clean {e : CacheLine} (m : Memory) (hd : e.dirty = false) :
    e.writtenBack m = e.backing := by simp [writtenBack, hd]

@[simp] theorem writeBackBytes_length (m : Memory) (a : Nat) (u : BitVec 16) (kept : List Byte) :
    (writeBackBytes m a u kept).length = kept.length := by simp [writeBackBytes]

theorem writeBackBytes_getD {m : Memory} {a k : Nat} {u : BitVec 16} {kept : List Byte} (h : k < kept.length) :
    (writeBackBytes m a u kept).getD k 0 =
      if u.getLsbD (k / 4) then kept.getD k 0 else readByte m (a + k) := by
  simp [writeBackBytes, h]

/-- The bytes that a write-back leaves Main Memory are a line's, and a byte of a word that something stored,
in a dirty line, is what loads see. -/
theorem CacheLine.writtenBack_some {e : CacheLine} {m : Memory} {bytes : List Byte}
    (h : e.writtenBack m = some bytes) :
    ∃ kept, e.backing = some kept ∧ bytes.length = kept.length ∧
      (e.dirty = true → e.unstored ≠ 0) ∧
      ∀ k < kept.length, bytes.getD k 0 =
        if e.dirty = true ∧ e.unstored.getLsbD (k / 4) = false then readByte m (e.base.toNat + k)
        else kept.getD k 0 := by
  unfold writtenBack at h
  split at h
  · rename_i hd
    split at h
    · cases h
    · rename_i hu
      obtain ⟨kept, hk, rfl⟩ := Option.map_eq_some_iff.mp h
      refine ⟨kept, hk, writeBackBytes_length .., fun _ => hu, fun k hk' => ?_⟩
      rw [writeBackBytes_getD hk']
      cases e.unstored.getLsbD (k / 4) <;> simp [hd]
  · rename_i hd
    exact ⟨bytes, h, rfl, fun hd' => absurd hd' hd, fun k _ => by simp [hd]⟩

theorem evictLine_wf {m : Memory} (h : memoryWf m) (e : CacheLine) : memoryWf (evictLine m e) := by
  unfold evictLine
  split
  · exact restoreLine_wf h _ _
  · exact h

/-- Replacing a line changes only bytes of it that Main Memory never gets. -/
theorem readByte_evictLine {m : Memory} (h : memoryWf m) (e : CacheLine) (a : Nat) (ha : ¬e.Loses a) :
    readByte (evictLine m e) a = readByte m a := by
  unfold evictLine restoreLine
  split
  · rename_i hv
    split
    · rfl
    · rename_i bytes hb
      obtain ⟨kept, hk, hlen, hu, hbytes⟩ := CacheLine.writtenBack_some hb
      rw [readByte_writeBytes h]
      split
      · rename_i hc
        rw [hbytes _ (by omega)]
        split
        · congr 1; omega
        · rename_i hn
          refine absurd ⟨kept, ?_, hk, hc.1, by omega, fun hd => ?_⟩ ha
          · by_cases hd : e.dirty = true
            · simp only [CacheLine.discards, hv, Bool.true_and, Bool.or_eq_true, bne_iff_ne]
              exact .inl (hu hd)
            · simp [CacheLine.discards, hv, hk, hd]
          · simpa [hd] using hn
      · rfl
  · rfl

/-! ### The TLB -/

/-- Translation changes the TLB only. -/
theorem State.fillTlb_eq (s : State) (va : VAddr) : ∃ l, s.fillTlb va = { s with tlb := l } := by
  unfold fillTlb
  split
  · exact ⟨s.tlb, rfl⟩
  · split
    · exact ⟨s.tlb, rfl⟩
    · exact ⟨_, rfl⟩

/-! ### Fetches and the record of stores (R100) -/

@[simp] theorem State.noteHalf_mem (s : State) (pa : PAddr) : (s.noteHalf pa).mem = s.mem := rfl
@[simp] theorem State.noteHalf_dcache (s : State) (pa : PAddr) : (s.noteHalf pa).dcache = s.dcache := rfl
@[simp] theorem State.noteHalf_icache (s : State) (pa : PAddr) : (s.noteHalf pa).icache = s.icache := rfl
@[simp] theorem State.noteHalf_tlb (s : State) (pa : PAddr) : (s.noteHalf pa).tlb = s.tlb := rfl
@[simp] theorem State.noteHalf_params (s : State) (pa : PAddr) : (s.noteHalf pa).params = s.params := rfl
@[simp] theorem State.noteHalf_pu (s : State) (pa : PAddr) (p : PuId) : (s.noteHalf pa).pu p = s.pu p := by
  cases p <;> rfl
@[simp] theorem State.noteHalf_cpu (s : State) (pa : PAddr) : (s.noteHalf pa).cpu = s.cpu := s.noteHalf_pu pa s.turn
@[simp] theorem State.noteHalf_lineBase (s : State) (pa b : PAddr) :
    (s.noteHalf pa).lineBase b = s.lineBase b := rfl
@[simp] theorem State.noteHalf_fetchCopy (s : State) (pa b : PAddr) :
    (s.noteHalf pa).fetchCopy b = s.fetchCopy b := rfl
@[simp] theorem State.noteHalf_mainHalf (s : State) (pa h : PAddr) :
    (s.noteHalf pa).mainHalf h = s.mainHalf h := rfl
@[simp] theorem State.noteHalf_halfIn (s : State) (pa h : PAddr) : (s.noteHalf pa).halfIn h = s.halfIn h := rfl

/-- A fetch returns one of the values it may return. -/
theorem State.fetched_mem (s : State) (pa : PAddr) : s.fetched pa ∈ s.fetchChoices pa := by
  have hm : s.mainHalf pa ∈ s.fetchChoices pa := by simp [fetchChoices]
  unfold fetched
  split
  · exact hm
  · have hlt := Nat.mod_lt (Config.freeWord s.tick (tagAt 3 pa)).toNat (List.length_pos_of_mem hm)
    rw [List.getD_eq_getElem _ _ hlt]
    exact List.getElem_mem hlt

/-- Where every value it may return is what loads see, a fetch returns that. -/
theorem State.fetched_of_coherent {s : State} {pa : PAddr} (h : s.Coherent pa) : s.fetched pa = s.halfIn pa :=
  h _ (s.fetched_mem pa)

/-- With no copy and no store recorded, a fetch reads Main Memory. -/
theorem State.fetched_of_main {s : State} {pa : PAddr} (hc : s.fetchCopy (s.lineBase pa) = none)
    (hr : s.storedHalf pa = none) : s.fetched pa = s.mainHalf pa := by
  have h := s.fetched_mem pa
  simpa [fetchChoices, hc, hr] using h

theorem mem_foldr_insert {x y : Half} (l : List Half) : x ∈ l.foldr List.insert [y] ↔ x = y ∨ x ∈ l := by
  induction l with
  | nil => simp
  | cons a l ih => simp only [List.foldr_cons, List.mem_insert_iff, ih, List.mem_cons]; tauto

/-- The record of a halfword just stored to. -/
theorem State.storedHalf_noteHalf (s : State) (pa h : PAddr) :
    (s.noteHalf pa).storedHalf h = if h = pa then
      some ⟨pa, (s.fetchChoices pa).foldr List.insert [s.halfIn pa], false⟩ else s.storedHalf h := by
  unfold noteHalf storedHalf
  by_cases hp : h = pa
  · simp [hp]
  · rw [List.find?_cons_of_neg (by simpa using fun e : pa = h => hp e.symm), if_neg hp, List.find?_filter]
    congr 1
    funext r
    by_cases hr : r.addr = h <;> simp [hr, hp]

/-- A fetch of it may return the new value or what it might have before. -/
theorem State.mem_fetchChoices_noteHalf (s : State) (pa : PAddr) (x : Half) :
    x ∈ (s.noteHalf pa).fetchChoices pa ↔ x = s.halfIn pa ∨ x ∈ s.fetchChoices pa := by
  obtain ⟨r, hr, hv⟩ : ∃ r, (s.noteHalf pa).storedHalf pa = some r ∧
      r.values = (s.fetchChoices pa).foldr List.insert [s.halfIn pa] :=
    ⟨_, by rw [storedHalf_noteHalf, if_pos rfl], rfl⟩
  have hx := mem_foldr_insert (x := x) (y := s.halfIn pa) (s.fetchChoices pa)
  rw [← hv] at hx
  rw [← hx]
  have hsub : x ∈ s.fetchChoices pa → x ∈ r.values := fun h => hx.mpr (.inr h)
  simp only [fetchChoices, hr, noteHalf_mainHalf, noteHalf_fetchCopy, noteHalf_lineBase, noteHalf_params,
    List.mem_append, List.mem_cons] at hsub ⊢
  tauto

/-- FDC or UDC marks the records of its line. -/
theorem State.storedHalf_noteWritten (s : State) (pa h : PAddr) :
    (s.noteWritten pa).storedHalf h = (s.storedHalf h).map (fun r =>
      { r with written := r.written || s.lineBase h == s.lineBase pa }) := by
  unfold noteWritten storedHalf
  dsimp only
  induction s.stored with
  | nil => rfl
  | cons r l ih =>
    by_cases hr : r.addr = h
    · subst hr
      rw [List.map_cons, List.find?_cons_of_pos (by simp), List.find?_cons_of_pos (by simp)]
      rfl
    · rw [List.map_cons, List.find?_cons_of_neg (by simpa using hr), List.find?_cons_of_neg (by simpa using hr), ih]

theorem find?_filter_addr {l : List StoredHalf} (hn : (l.map StoredHalf.addr).Nodup) (p : StoredHalf → Bool)
    (h : PAddr) : (l.filter p).find? (fun r => r.addr == h) = (l.find? (fun r => r.addr == h)).filter p := by
  induction l with
  | nil => rfl
  | cons r l ih =>
    obtain ⟨h1, h2⟩ := List.nodup_cons.mp hn
    by_cases hr : r.addr = h
    · subst hr
      rw [List.find?_cons_of_pos (by simp)]
      by_cases hp : p r = true
      · rw [List.filter_cons_of_pos hp, List.find?_cons_of_pos (by simp)]
        simp [Option.filter, hp]
      · rw [List.filter_cons_of_neg hp]
        have : (l.filter p).find? (fun q => q.addr == r.addr) = none := by
          rw [List.find?_eq_none]
          intro q hq
          simp only [beq_iff_eq]
          exact fun e => h1 (e ▸ List.mem_map_of_mem (List.mem_of_mem_filter hq))
        simp [this, Option.filter, hp]
    · rw [List.find?_cons_of_neg (by simpa using hr), ← ih h2]
      by_cases hp : p r = true
      · rw [List.filter_cons_of_pos hp, List.find?_cons_of_neg (by simpa using hr)]
      · rw [List.filter_cons_of_neg hp]

/-- IIC ends the records of its line that were written back. -/
theorem State.storedHalf_dropFetch {s : State} (hs : s.StoredWf) (pa h : PAddr) :
    (s.dropFetch pa).storedHalf h = (s.storedHalf h).filter (fun r =>
      !(r.written && s.lineBase h == s.lineBase pa)) := by
  unfold dropFetch storedHalf
  dsimp only
  rw [find?_filter_addr hs]
  cases hf : s.stored.find? (fun r => r.addr == h) with
  | none => rfl
  | some r =>
    have : r.addr = h := by simpa using List.find?_some hf
    simp [Option.filter, this]

/-- IICa ends all of them. -/
theorem State.storedHalf_dropAllFetch {s : State} (hs : s.StoredWf) (h : PAddr) :
    s.dropAllFetch.storedHalf h = (s.storedHalf h).filter (fun r => !r.written) :=
  find?_filter_addr hs _ h

theorem State.noteHalf_storedWf {s : State} (hs : s.StoredWf) (pa : PAddr) : (s.noteHalf pa).StoredWf := by
  unfold StoredWf noteHalf
  rw [List.map_cons, List.nodup_cons]
  refine ⟨?_, hs.sublist (List.filter_sublist.map _)⟩
  simp

theorem State.noteWritten_storedWf {s : State} (hs : s.StoredWf) (pa : PAddr) : (s.noteWritten pa).StoredWf := by
  unfold StoredWf noteWritten
  rw [List.map_map]
  exact hs

theorem State.dropFetch_storedWf {s : State} (hs : s.StoredWf) (pa : PAddr) : (s.dropFetch pa).StoredWf :=
  hs.sublist (List.filter_sublist.map _)

theorem State.dropAllFetch_storedWf {s : State} (hs : s.StoredWf) : s.dropAllFetch.StoredWf :=
  hs.sublist (List.filter_sublist.map _)

/-! ### Accesses through the data cache -/

/-- A load or store first replaces the line it needs; memory is then `memoryAfter`. -/
theorem State.useLine_mem (s : State) (pa : PAddr) (d : PageDesc) (st : Bool) :
    (s.useLine pa d st).mem = s.memoryAfter pa := by
  unfold useLine memoryAfter victim
  dsimp only
  split <;> simp

/-- It changes memory and the data cache only. -/
theorem State.useLine_eq (s : State) (pa : PAddr) (d : PageDesc) (st : Bool) :
    ∃ c, s.useLine pa d st = { s with mem := s.memoryAfter pa, dcache := c } := by
  refine ⟨(s.useLine pa d st).dcache, ?_⟩
  unfold useLine memoryAfter victim
  dsimp only
  split <;> simp

theorem State.memoryAfter_wf {s : State} (h : memoryWf s.mem) (pa : PAddr) :
    memoryWf (s.memoryAfter pa) := by
  unfold memoryAfter
  split
  · exact h
  · exact evictLine_wf h _

/-- Memory after the access reads as before outside a line whose stores it discards. -/
theorem State.readByte_memoryAfter {s : State} (h : memoryWf s.mem) (pa : PAddr) (a : Nat)
    (ha : ¬s.Discards pa a) : readByte (s.memoryAfter pa) a = readByte s.mem a := by
  unfold memoryAfter
  split
  · rfl
  · rename_i e he
    refine readByte_evictLine h e a ?_
    exact fun hl => ha ⟨e, he, hl⟩

/-- `State.accessed` changes the TLB, the data cache and memory only. -/
theorem State.accessed_eq (s : State) (va : VAddr) (pa : PAddr) (d : PageDesc) (st : Bool) :
    ∃ l c, s.accessed va pa d st = { s with tlb := l, mem := s.memoryAfter pa, dcache := c } := by
  obtain ⟨l, hl⟩ := s.fillTlb_eq va
  obtain ⟨c, hc⟩ := State.useLine_eq { s with tlb := l } pa d st
  refine ⟨l, c, ?_⟩
  unfold accessed
  rw [hl, hc]
  rfl

/-- An allowed access of this node translates to its page's address. -/
theorem State.translate_of_allows {s : State} {va : VAddr} {k : AccessKind} {d : PageDesc}
    (h : s.Allows va k d) : s.translate va k s.cpu.flagU = .ok (.here (pageAddress d va) d) := by
  obtain ⟨h1, h2, h3, h4⟩ := h
  simp [translate, h1, h2, h3, h4]

/-- What a word load answers when it answers: a word of this node's memory, or a free word. -/
theorem State.loadWord_ok {s t : State} {wa : WAddr} {v : Word} (h : s.loadWord wa = .ok (v, t)) :
    (∃ pa d l c, s.translate (byteOfWord wa) .load s.cpu.flagU = .ok (.here pa d) ∧
      v = readWord s.params.byteOrder (s.memoryAfter pa) pa.toNat ∧
      t = { s with tlb := l, mem := s.memoryAfter pa, dcache := c }) ∨
    (s.translate (byteOfWord wa) .load s.cpu.flagU = .ok .remote ∧
      v = Config.freeWord s.tick (tagAt 7 (byteOfWord wa)) ∧ ∃ l, t = { s with tlb := l }) := by
  unfold loadWord at h
  dsimp only at h
  split at h
  · simp at h
  · rename_i hr
    simp only [Except.ok.injEq, Prod.mk.injEq] at h
    obtain ⟨l, hl⟩ := s.fillTlb_eq (byteOfWord wa)
    exact .inr ⟨hr, h.1.symm, l, by rw [← h.2, hl]⟩
  · rename_i pa d hr
    simp only [Except.ok.injEq, Prod.mk.injEq] at h
    obtain ⟨l, c, hc⟩ := s.accessed_eq (byteOfWord wa) pa d false
    refine .inl ⟨pa, d, l, c, hr, ?_, by rw [← h.2, hc]⟩
    rw [← h.1, hc]

/-- What a word store answers when it answers: its word in this node's memory, or another node's. -/
theorem State.storeWord_ok {s t : State} {wa : WAddr} {v : Word} (h : s.storeWord wa v = .ok t) :
    (∃ pa d l c, s.translate (byteOfWord wa) .store s.cpu.flagU = .ok (.here pa d) ∧
      t = (({ s with
          tlb := l, dcache := c
          mem := writeWord s.params.byteOrder (s.memoryAfter pa) pa.toNat v } : State).noteHalf pa).noteHalf
            (pa + 2)) ∨
    (s.translate (byteOfWord wa) .store s.cpu.flagU = .ok .remote ∧ ∃ l, t = { s with tlb := l }) := by
  unfold storeWord at h
  dsimp only at h
  split at h
  · simp at h
  · rename_i hr
    simp only [Except.ok.injEq] at h
    obtain ⟨l, hl⟩ := s.fillTlb_eq (byteOfWord wa)
    exact .inr ⟨hr, l, by rw [← h, hl]⟩
  · rename_i pa d hr
    simp only [Except.ok.injEq] at h
    obtain ⟨l, c, hc⟩ := s.accessed_eq (byteOfWord wa) pa d true
    exact .inl ⟨pa, d, l, c, hr, by rw [← h, hc]⟩

/-- What a byte load answers when it answers. -/
theorem State.loadByte_ok {s t : State} {va : VAddr} {b : Byte} (h : s.loadByte va = .ok (b, t)) :
    (∃ pa d l c, s.translate va .load s.cpu.flagU = .ok (.here pa d) ∧
      b = readByte (s.memoryAfter pa) pa.toNat ∧
      t = { s with tlb := l, mem := s.memoryAfter pa, dcache := c }) ∨
    (s.translate va .load s.cpu.flagU = .ok .remote ∧
      b = (Config.freeWord s.tick (tagAt 8 va)).extractLsb' 0 8 ∧ ∃ l, t = { s with tlb := l }) := by
  unfold loadByte at h
  dsimp only at h
  split at h
  · simp at h
  · rename_i hr
    simp only [Except.ok.injEq, Prod.mk.injEq] at h
    obtain ⟨l, hl⟩ := s.fillTlb_eq va
    exact .inr ⟨hr, h.1.symm, l, by rw [← h.2, hl]⟩
  · rename_i pa d hr
    simp only [Except.ok.injEq, Prod.mk.injEq] at h
    obtain ⟨l, c, hc⟩ := s.accessed_eq va pa d false
    refine .inl ⟨pa, d, l, c, hr, ?_, by rw [← h.2, hc]⟩
    rw [← h.1, hc]

/-- What a byte store answers when it answers. -/
theorem State.storeByte_ok {s t : State} {va : VAddr} {b : Byte} (h : s.storeByte va b = .ok t) :
    (∃ pa d l c, s.translate va .store s.cpu.flagU = .ok (.here pa d) ∧
      t = ({ s with
          tlb := l, dcache := c, mem := writeByte (s.memoryAfter pa) pa.toNat b } : State).noteHalf (halfBase pa)) ∨
    (s.translate va .store s.cpu.flagU = .ok .remote ∧ ∃ l, t = { s with tlb := l }) := by
  unfold storeByte at h
  dsimp only at h
  split at h
  · simp at h
  · rename_i hr
    simp only [Except.ok.injEq] at h
    obtain ⟨l, hl⟩ := s.fillTlb_eq va
    exact .inr ⟨hr, l, by rw [← h, hl]⟩
  · rename_i pa d hr
    simp only [Except.ok.injEq] at h
    obtain ⟨l, c, hc⟩ := s.accessed_eq va pa d true
    exact .inl ⟨pa, d, l, c, hr, by rw [← h, hc]⟩

/-- A fetch changes the TLB and the instruction cache only. -/
theorem State.fetchHalf_ok {s t : State} {h : HAddr} {w : Half} (hf : s.fetchHalf h = .ok (w, t)) :
    ∃ l c, t = { s with tlb := l, icache := c } := by
  unfold fetchHalf at hf
  dsimp only at hf
  obtain ⟨l, hl⟩ := s.fillTlb_eq (byteOfHalf h)
  split at hf
  · simp at hf
  · simp only [Except.ok.injEq, Prod.mk.injEq] at hf
    exact ⟨l, s.icache, by rw [← hf.2, hl]⟩
  · rename_i pa d hr
    simp only [Except.ok.injEq, Prod.mk.injEq] at hf
    rw [← hf.2, hl]
    unfold fillFetch
    split
    · exact ⟨l, s.icache, rfl⟩
    · exact ⟨l, _, rfl⟩

/-! ### The cache operations keep memory canonical -/

theorem State.storeWord_wf {s t : State} {wa : WAddr} {v : Word} (hm : memoryWf s.mem)
    (h : s.storeWord wa v = .ok t) : memoryWf t.mem := by
  obtain ⟨pa, d, l, c, -, rfl⟩ | ⟨-, l, rfl⟩ := storeWord_ok h
  · exact writeWord_wf (memoryAfter_wf hm pa) _ _ _
  · exact hm

theorem State.storeByte_wf {s t : State} {va : VAddr} {b : Byte} (hm : memoryWf s.mem)
    (h : s.storeByte va b = .ok t) : memoryWf t.mem := by
  obtain ⟨pa, d, l, c, -, rfl⟩ | ⟨-, l, rfl⟩ := storeByte_ok h
  · exact writeByte_wf (memoryAfter_wf hm pa) _ _
  · exact hm

theorem State.loadWord_wf {s t : State} {wa : WAddr} {v : Word} (hm : memoryWf s.mem)
    (h : s.loadWord wa = .ok (v, t)) : memoryWf t.mem := by
  obtain ⟨pa, d, l, c, -, -, rfl⟩ | ⟨-, -, l, rfl⟩ := loadWord_ok h
  · exact memoryAfter_wf hm pa
  · exact hm

theorem State.loadByte_wf {s t : State} {va : VAddr} {b : Byte} (hm : memoryWf s.mem)
    (h : s.loadByte va = .ok (b, t)) : memoryWf t.mem := by
  obtain ⟨pa, d, l, c, -, -, rfl⟩ | ⟨-, -, l, rfl⟩ := loadByte_ok h
  · exact memoryAfter_wf hm pa
  · exact hm

theorem State.flushLine_wf {s : State} (hm : memoryWf s.mem) (pa : PAddr) :
    memoryWf (s.flushLine pa).mem := by
  unfold flushLine
  dsimp only
  split
  · exact hm
  · exact evictLine_wf hm _

theorem State.invalidateLine_wf {s : State} (hm : memoryWf s.mem) (pa : PAddr) :
    memoryWf (s.invalidateLine pa).mem := by
  unfold invalidateLine
  dsimp only
  split
  · exact hm
  · exact restoreLine_wf hm _ _

theorem State.createLine_wf {s : State} (hm : memoryWf s.mem) (pa : PAddr) (d : PageDesc) :
    memoryWf (s.createLine pa d).mem := by
  unfold createLine
  dsimp only
  split <;> exact writeBytes_wf (evictLine_wf hm _) _ _

theorem State.prefetchData_wf {s : State} (hm : memoryWf s.mem) (pa : PAddr) (d : PageDesc) :
    memoryWf (s.prefetchData pa d).mem := by
  unfold prefetchData
  split
  · exact hm
  · dsimp only
    split
    · rw [useLine_mem]
      exact memoryAfter_wf hm pa
    · exact hm

theorem State.updateLine_mem (s : State) (pa : PAddr) : (s.updateLine pa).mem = s.mem := by
  unfold updateLine
  dsimp only
  split
  · rfl
  · split <;> rfl

theorem State.validateLine_mem (s : State) (pa : PAddr) : (s.validateLine pa).mem = s.mem := by
  unfold validateLine
  dsimp only
  split
  · rfl
  · split <;> rfl

end Sys2Proof.Machine
end

