-- ==== Sys2Proof/Laws/Ops.lean ====
section
/-! SUPPORT. What the shared operations do, said once: taking an exception, returning from one, a change of
several PUs, the end of a Wait, the results of arithmetic, and the end of a step. -/

namespace Sys2Proof.Machine

/-! ### Program counters (10_state.md R32) -/

/-- Inside the program counter's range `pcAdd` is exact. -/
theorem pcAdd_inside (h : HAddr) (d : Int) (h0 : 0 ≤ h.toNat + d) (h1 : h.toNat + d < 2 ^ 30) :
    ((pcAdd h d).toNat : Int) = h.toNat + d := by
  unfold pcAdd
  rw [if_pos ⟨h0, by omega⟩, BitVec.toNat_ofInt]
  omega

/-- Outside it the result is open (L25). -/
theorem pcAdd_outside (h : HAddr) (d : Int) (h0 : ¬(0 ≤ h.toNat + d ∧ h.toNat + d < 2 ^ 30)) :
    pcAdd h d = Config.pcBeyond (h.toNat + d) := by
  unfold pcAdd
  rw [if_neg (by omega)]

/-! ### One transfer of a LdM or StM (40_load_store_move.md R165, R175) -/

/-- A run goes on with the register below. -/
theorem State.runOn_run (s : State) (x : Transfer) :
    (s.runOn x).cpu.run = some (.move { x with next := regOf (x.next.val - 1) }) := by
  unfold runOn stay modCpu setCpu
  cases h : s.turn <;> simp [cpu, pu, setPu, h]

/-- After one transfer the PU has trapped, has finished the instruction, or waits with the rest of the
run. -/
theorem State.transferOne_cases (s : State) (x : Transfer) :
    (s.transferOne x).event = .trapped ∨ ((s.transferOne x).event = .finished ∧ x.next.val ≤ 1) ∨
      ((s.transferOne x).event = .waiting ∧ 1 < x.next.val ∧
        (s.transferOne x).cpu.run = some (.move { x with next := regOf (x.next.val - 1) })) := by
  unfold transferOne loadTransfer storeTransfer
  split <;> dsimp only <;> split
  · exact .inl rfl
  · split
    · exact .inr (.inl ⟨rfl, ‹_›⟩)
    · exact .inr (.inr ⟨rfl, by omega, State.runOn_run _ x⟩)
  · exact .inl rfl
  · split
    · exact .inr (.inl ⟨rfl, ‹_›⟩)
    · exact .inr (.inr ⟨rfl, by omega, State.runOn_run _ x⟩)

/-! ### The fetches of an instruction (20_memory.md R87, R89) -/

@[simp] theorem State.withRest_cpu (s : State) (r : Option Rest) :
    (s.withRest r).cpu = { s.cpu with run := r } := by
  simp [withRest]

/-- A first halfword of two is held only where the instruction may stand. -/
theorem State.holdFirst_next (s t : State) (w : Half) (h : s.holdFirst w = .next t) :
    t = (s.withRest (some (.second w))).stay ∧ s.cpu.rti1 = false ∧ s.cpu.misplaced = false := by
  unfold holdFirst at h
  split at h
  · cases h
  · split at h
    · cases h
    · exact ⟨(Host.Outcome.next.inj h).symm, by simp_all, by simp_all⟩

/-- The instruction a step performs is the one held, or stands in the halfword just fetched. -/
theorem State.fetchDecode_ok (s t : State) (i : Instr) (h : s.fetchDecode = .ok (i, t)) :
    (s.cpu.run = some (.access i) ∧ t = s.withRest none) ∨
      ∃ w rest, s.fetchHalf s.cpu.pc = .ok (w, t) ∧ decode s.params.opcodes [w] = .ok (i, rest) := by
  unfold fetchDecode at h
  split at h
  · cases h
  · cases h
    exact .inl ⟨by assumption, rfl⟩
  all_goals
    unfold fetchFirst at h
    split at h
    · cases h
    · split at h <;> cases h
      exact .inr ⟨_, _, by assumption, by assumption⟩

/-! ### Taking an exception (60_exceptions.md R352) -/

/-- `clearEnable` writes S12 or S14 only. -/
theorem State.clearEnable_eq (s : State) (n : Fin 32) :
    s.clearEnable n = { s with
      s12 := if n = numEventCounter then clearCounterEnables s.s12 else s.s12
      s14 := if n = numEventCounter then s.s14 else if n = numExternal then setBit s.s14 31 false else s.s14 } := by
  unfold clearEnable
  split
  · rfl
  · split <;> rfl

/-- The PU that takes an exception. -/
theorem State.enter_pu_self (s : State) (p : PuId) (n : Fin 32) (sv : HAddr × HAddr) :
    (s.enter p n sv).pu p = (s.pu p).enter p s.tick n sv := by
  cases p <;> rfl

/-- The other PUs keep everything. -/
theorem State.enter_pu_other (s : State) (p : PuId) (n : Fin 32) (sv : HAddr × HAddr) {q : PuId}
    (h : q ≠ p) : (s.enter p n sv).pu q = s.pu q := by
  have hc := s.clearEnable_eq n
  unfold enter
  rw [hc]
  cases p <;> cases q <;> first | exact absurd rfl h | rfl

/-- An entry changes the PU, the individual enable and the step's mark; memory and the rest stay. -/
theorem State.enter_eq (s : State) (p : PuId) (n : Fin 32) (sv : HAddr × HAddr) :
    s.enter p n sv = { s.setPu p ((s.pu p).enter p s.tick n sv) with
      s12 := if n = numEventCounter then clearCounterEnables s.s12 else s.s12
      s14 := if n = numEventCounter then s.s14 else if n = numExternal then setBit s.s14 31 false else s.s14
      event := .trapped } := by
  unfold enter
  rw [s.clearEnable_eq n]
  cases p <;> rfl

/-- Traps other than the two with an individual enable. -/
theorem State.raiseAt_eq (s : State) (n : Fin 32) (sv : HAddr × HAddr) (h1 : n ≠ numEventCounter)
    (h2 : n ≠ numExternal) :
    s.raiseAt n sv = { s.setPu s.turn
      (s.cpu.enter s.turn s.tick (if s.cpu.flagT then n else numMachineCheck) sv) with event := .trapped } := by
  unfold raiseAt
  have m1 : numMachineCheck ≠ numEventCounter := by decide
  have m2 : numMachineCheck ≠ numExternal := by decide
  rw [enter_eq]
  by_cases hT : s.cpu.flagT = true
  · simp only [hT, if_true, h1, h2, if_false]
    cases hs : s.turn <;> simp [setPu, cpu, hs]
  · simp only [hT, m1, m2, if_false, Bool.false_eq_true]
    cases hs : s.turn <;> simp [setPu, cpu, hs]

/-- The PU at a vector: the program counters, system mode, traps off, not halted. -/
theorem PU.enterVector_entry (u : PU) (p : PuId) (tick : Nat) (n : Fin 32) :
    (u.enterVector p tick n).pc = BitVec.ofNat 30 (8 * n.val) ∧
    (u.enterVector p tick n).npc = BitVec.ofNat 30 (8 * n.val) + 1 ∧
    (u.enterVector p tick n).sscr.extractLsb' 0 16 = 0 ∧ (u.enterVector p tick n).flagT = false ∧
    (u.enterVector p tick n).flagU = false ∧ (u.enterVector p tick n).flagW = false ∧
    (u.enterVector p tick n).flagS = false := by
  refine ⟨rfl, rfl, ?_, ?_, ?_, ?_, ?_⟩
  · apply BitVec.eq_of_getLsbD_eq
    intro k hk
    interval_cases k <;> simp [PU.enterVector, entryFreeBits, -BitVec.getLsbD_eq_getElem]
  · simp [PU.enterVector, PU.flagT, entryFreeBits, -BitVec.getLsbD_eq_getElem]
  · simp [PU.enterVector, PU.flagU, entryFreeBits, -BitVec.getLsbD_eq_getElem]
  · simp [PU.enterVector, PU.flagW, entryFreeBits, -BitVec.getLsbD_eq_getElem]
  · simp [PU.enterVector, PU.flagS, entryFreeBits, -BitVec.getLsbD_eq_getElem]

/-- The PU at an exception's entry. -/
theorem PU.enter_entry (u : PU) (p : PuId) (tick : Nat) (n : Fin 32) (sv : HAddr × HAddr) :
    (u.enter p tick n sv).pc = BitVec.ofNat 30 (8 * n.val) ∧
    (u.enter p tick n sv).npc = BitVec.ofNat 30 (8 * n.val) + 1 ∧
    (u.enter p tick n sv).sscr.extractLsb' 0 16 = 0 ∧ (u.enter p tick n sv).flagT = false ∧
    (u.enter p tick n sv).flagU = false ∧ (u.enter p tick n sv).flagW = false ∧
    (u.enter p tick n sv).flagS = false :=
  PU.enterVector_entry _ p tick n

/-- With traps enabled the interrupted context is saved. -/
theorem PU.enter_saves (u : PU) (p : PuId) (tick : Nat) (n : Fin 32) (sv : HAddr × HAddr)
    (h : u.flagT = true) :
    (u.enter p tick n sv).statusSave = u.sscr ∧ (u.enter p tick n sv).qHead = sv.1 ∧
      (u.enter p tick n sv).qTail = sv.2 := by
  simp [PU.enter, PU.enterVector, h]

/-- What an entry leaves of a PU: registers, mask, results, held causes and intervals. -/
theorem PU.enter_frame (u : PU) (p : PuId) (tick : Nat) (n : Fin 32) (sv : HAddr × HAddr) :
    (u.enter p tick n sv).regs = u.regs ∧ (u.enter p tick n sv).mask = u.mask ∧
    (u.enter p tick n sv).remainder = u.remainder ∧ (u.enter p tick n sv).product = u.product ∧
    (u.enter p tick n sv).trapArg = u.trapArg ∧ (u.enter p tick n sv).pendInter = u.pendInter ∧
    (u.enter p tick n sv).pendRestart = u.pendRestart ∧ (u.enter p tick n sv).inflight = u.inflight ∧
    (u.enter p tick n sv).waitEnded = u.waitEnded := by
  unfold PU.enter
  split <;> exact ⟨rfl, rfl, rfl, rfl, rfl, rfl, rfl, rfl, rfl⟩

/-- Each PU after a Reset of the chip. -/
theorem State.resetAll_pu (s : State) (q : PuId) :
    s.resetAll.pu q = (s.pu q).resetBy q s.tick (s.resets q) := by
  cases q <;> rfl

/-! ### A change of several PUs -/

/-- What `forPus` changes beside PUs: nothing. -/
theorem State.forPus_frame (s : State) (ps : List PuId) (f : PU → PU) :
    (s.forPus ps f).mem = s.mem ∧ (s.forPus ps f).dcache = s.dcache ∧ (s.forPus ps f).icache = s.icache ∧
    (s.forPus ps f).tlb = s.tlb ∧ (s.forPus ps f).turn = s.turn ∧ (s.forPus ps f).params = s.params ∧
    (s.forPus ps f).tick = s.tick ∧ (s.forPus ps f).s14 = s.s14 := by
  unfold forPus
  induction ps generalizing s with
  | nil => simp
  | cons p rest ih =>
    rw [List.foldl_cons]
    obtain ⟨h1, h2, h3, h4, h5, h6, h7, h8⟩ := ih (s.setPu p (f (s.pu p)))
    refine ⟨?_, ?_, ?_, ?_, ?_, ?_, ?_, ?_⟩ <;> simp [*]

/-- Each PU of a list without repeats is changed once, the others keep everything. -/
theorem State.forPus_pu (s : State) (ps : List PuId) (f : PU → PU) (hd : ps.Nodup) (q : PuId) :
    (s.forPus ps f).pu q = if q ∈ ps then f (s.pu q) else s.pu q := by
  unfold forPus
  induction ps generalizing s with
  | nil => simp
  | cons p rest ih =>
    obtain ⟨hp, hr⟩ := List.nodup_cons.mp hd
    rw [List.foldl_cons, ih (s.setPu p (f (s.pu p))) hr]
    by_cases hq : q = p
    · subst hq
      simp only [hp, if_false, List.mem_cons, true_or, if_true]
      cases q <;> rfl
    · have : (s.setPu p (f (s.pu p))).pu q = s.pu q := by
        cases p <;> cases q <;> first | exact absurd rfl hq | rfl
      simp [hq, this]

/-- The PUs a PuMask names, each once. -/
theorem targets_nodup (m : BitVec 4) : (targets m).Nodup :=
  List.Nodup.filter _ (by decide)

theorem mem_targets (m : BitVec 4) (q : PuId) : q ∈ targets m ↔ m.getLsbD q.number = true := by
  cases q <;> simp [targets, PuId.all]

/-! ### The end of a Wait -/

/-- Each PU whose Wait has its condition met goes on; the others keep everything. -/
theorem State.releaseWaits_pu (s : State) (q : PuId) :
    s.releaseWaits.pu q = if s.waitEnds q then (s.pu q).leaveWait else s.pu q := by
  cases q <;> rfl

/-! ### The end of a step -/

/-- The end of a step changes the event counters, the PUs' intervals and marks, `tick` and `turn` only. -/
theorem State.finishStep_frame (s : State) (user : Bool) :
    (s.finishStep user).mem = s.mem ∧ (s.finishStep user).dcache = s.dcache ∧
    (s.finishStep user).icache = s.icache ∧ (s.finishStep user).tlb = s.tlb ∧
    (s.finishStep user).params = s.params ∧ (s.finishStep user).tick = s.tick + 1 ∧
    (s.finishStep user).turn = s.turn.next ∧ (s.finishStep user).s14 = s.s14 ∧
    (s.finishStep user).s15 = s.s15 ∧ (s.finishStep user).inputs = s.inputs ∧
    (s.finishStep user).pend = s.pend ∧ (s.finishStep user).event = s.event :=
  ⟨rfl, rfl, rfl, rfl, rfl, rfl, rfl, rfl, rfl, rfl, rfl, rfl⟩

/-- Counting changes no PU. -/
theorem State.count_pu (s : State) (user : Bool) (q : PuId) : (s.count user).pu q = s.pu q := by
  cases q <;> rfl

/-- A PU after a step: its intervals one shorter if it finished an instruction, otherwise as it was, and
its ended Wait counted. -/
theorem State.finishStep_pu (s : State) (user : Bool) (q : PuId) :
    (s.finishStep user).pu q = s.retired q := by
  cases q <;> rfl

end Sys2Proof.Machine
end

