-- ==== Sys2Proof/Laws/Frames.lean ====
section
/-! SUPPORT. Frames of operations that change the executing PU only, and the composition of frames. -/

namespace Sys2Proof.Machine

/-- What a PU's registers read follows from its register file. -/
theorem PU.reg_of_regs {u v : PU} (h : u.regs = v.regs) (r : Reg) : u.reg r = v.reg r := by
  unfold PU.reg
  rw [h]

/-- Which results are pending follows from the intervals. -/
theorem PU.busy_of_inflight {u v : PU} (h : u.inflight = v.inflight) (d : Dest) : u.busy d = v.busy d := by
  unfold PU.busy
  rw [h]

/-- The executing PU replaced and the step marked: the frame is the PU's own. -/
theorem unchanged_setCpu {s : State} {u : PU} {e : StepEvent} {ps : List Part}
    (hr : ∀ r, Part.reg r ∉ ps → u.reg r = s.cpu.reg r)
    (hb : ∀ b : Fin 32, Part.status b ∉ ps → u.sscr.getLsbD b.val = s.cpu.sscr.getLsbD b.val)
    (hc : Part.counters ∉ ps → u.pc = s.cpu.pc ∧ u.npc = s.cpu.npc)
    (hm : Part.mask ∉ ps → u.mask = s.cpu.mask)
    (h1 : Part.remainder ∉ ps → u.remainder = s.cpu.remainder)
    (h2 : Part.product ∉ ps → u.product = s.cpu.product)
    (h7 : Part.statusSave ∉ ps → u.statusSave = s.cpu.statusSave)
    (h8 : Part.trapArg ∉ ps → u.trapArg = s.cpu.trapArg)
    (h9 : Part.queue ∉ ps → u.qHead = s.cpu.qHead ∧ u.qTail = s.cpu.qTail)
    (hi : Part.returnMark ∉ ps → u.rti1 = s.cpu.rti1)
    (hf : Part.waitSem ∉ ps → u.waitSem = s.cpu.waitSem)
    (hx : Part.run ∉ ps → u.run = s.cpu.run)
    (hw : Part.waitMask ∉ ps → u.waitMask = s.cpu.waitMask)
    (hp : Part.pendInter ∉ ps → u.pendInter = s.cpu.pendInter)
    (hs : Part.pendRestart ∉ ps → u.pendRestart = s.cpu.pendRestart)
    (hd : Part.intervals ∉ ps → ∀ d, u.busy d = s.cpu.busy d)
    (he : Part.waitEnded ∉ ps → u.waitEnded = s.cpu.waitEnded) :
    Unchanged s { s.setCpu u with event := e } ps := by
  intro p hmem
  have hcpu : ({ s.setCpu u with event := e } : State).cpu = u :=
    (State.cpu_with_event (s.setCpu u) e).trans (State.setCpu_cpu s u)
  have hother : ∀ q, q ≠ s.turn → ({ s.setCpu u with event := e } : State).pu q = s.pu q :=
    fun q hq => (State.setCpu_pu_other s u hq : (s.setCpu u).pu q = s.pu q)
  cases p with
  | reg r => exact (congrArg (fun v : PU => v.reg r) hcpu).trans (hr r hmem)
  | status b => exact (congrArg (fun v : PU => v.sscr.getLsbD b.val) hcpu).trans (hb b hmem)
  | counters => simpa only [Part.Same, hcpu] using hc hmem
  | mask => simpa only [Part.Same, hcpu] using hm hmem
  | remainder => simpa only [Part.Same, hcpu] using h1 hmem
  | product => simpa only [Part.Same, hcpu] using h2 hmem
  | statusSave => simpa only [Part.Same, hcpu] using h7 hmem
  | trapArg => simpa only [Part.Same, hcpu] using h8 hmem
  | queue => simpa only [Part.Same, hcpu] using h9 hmem
  | returnMark => simpa only [Part.Same, hcpu] using hi hmem
  | waitSem => simpa only [Part.Same, hcpu] using hf hmem
  | run => simpa only [Part.Same, hcpu] using hx hmem
  | waitMask => simpa only [Part.Same, hcpu] using hw hmem
  | pendInter => simpa only [Part.Same, hcpu] using hp hmem
  | pendRestart => simpa only [Part.Same, hcpu] using hs hmem
  | intervals => simpa only [Part.Same, hcpu] using hd hmem
  | waitEnded => simpa only [Part.Same, hcpu] using he hmem
  | otherPus => exact hother
  | memory | dataCache | instCache | stored | tlb | test | window | semaphores | eventCounters | eventConfig
  | interruptArgument | pageTable | pending | model => simp [Part.Same]

/-- Two frames in a row: whatever neither changes is the same. -/
theorem Unchanged.trans {s t v : State} {ps qs : List Part} (ht : t.turn = s.turn) (h1 : Unchanged s t ps)
    (h2 : Unchanged t v qs) : Unchanged s v (ps ++ qs) := by
  intro p hp
  simp only [List.mem_append, not_or] at hp
  have a := h1 p hp.1
  have b := h2 p hp.2
  cases p with
  | otherPus => exact fun q hq => (b q (by rwa [ht])).trans (a q hq)
  | reg r => exact Eq.trans b a
  | status x => exact Eq.trans b a
  | counters => exact ⟨b.1.trans a.1, b.2.trans a.2⟩
  | mask => exact Eq.trans b a
  | remainder => exact Eq.trans b a
  | product => exact Eq.trans b a
  | statusSave => exact Eq.trans b a
  | trapArg => exact Eq.trans b a
  | queue => exact ⟨b.1.trans a.1, b.2.trans a.2⟩
  | returnMark => exact Eq.trans b a
  | waitSem => exact Eq.trans b a
  | run => exact Eq.trans b a
  | waitMask => exact Eq.trans b a
  | pendInter => exact Eq.trans b a
  | pendRestart => exact Eq.trans b a
  | intervals => exact fun d => (b d).trans (a d)
  | waitEnded => exact Eq.trans b a
  | memory => exact fun x => (b x).trans (a x)
  | dataCache => exact Eq.trans b a
  | instCache => exact Eq.trans b a
  | stored => exact Eq.trans b a
  | tlb => exact Eq.trans b a
  | test => exact Eq.trans b a
  | window => exact Eq.trans b a
  | semaphores => exact ⟨b.1.trans a.1, b.2.trans a.2⟩
  | eventCounters => exact ⟨b.1.trans a.1, b.2.trans a.2⟩
  | eventConfig => exact Eq.trans b a
  | interruptArgument => exact Eq.trans b a
  | pageTable => exact Eq.trans b a
  | pending => exact Eq.trans b a
  | model => exact ⟨b.1.trans a.1, b.2.1.trans a.2.1, b.2.2.1.trans a.2.2.1, b.2.2.2.trans a.2.2.2⟩

/-- A change of the executing PU, then the step's end. -/
theorem State.advance_modCpu (s : State) (f : PU → PU) :
    (s.modCpu f).advance = { s.setCpu (f s.cpu).sequential with event := .finished } := by
  unfold State.advance
  rw [State.modCpu_modCpu]
  rfl

/-- A change of the executing PU, then the end of an extended step. -/
theorem State.advanceExtended_modCpu (s : State) (f : PU → PU) :
    (s.modCpu f).advanceExtended =
      { s.setCpu (f s.cpu).sequentialExtended with event := .finishedExtended } := by
  unfold State.advanceExtended
  rw [State.modCpu_modCpu]
  rfl

end Sys2Proof.Machine
end

