-- ==== Sys2Proof/Laws/PerInstr.lean ====
section
/-! SUPPORT. One lemma per constructor: the operand fields of an instruction stand outside the opcode bits
of its form, and its second halfword is there exactly if the form is extended (30_encoding.md R121, R135). -/

namespace Sys2Proof

/-- Two register fields lie in bits 7:0. -/
theorem placeBA_and (b a : Fin 16) : placeBA b a &&& 0xFF00 = 0 := by
  revert b a; decide +kernel

/-- One 4-bit field lies in bits 3:0. -/
theorem placeA_and (a : Fin 16) : placeA a &&& 0xFFF0 = 0 := by
  revert a; decide +kernel

/-- A split 8-bit field lies in bits 11:0. -/
theorem placeImm8_and (b : Fin 16) (v : BitVec 8) : placeImm8 b v &&& 0xF000 = 0 := by
  unfold placeImm8
  obtain ⟨p, hp⟩ : ∃ p : Fin (2 ^ 4), v.extractLsb' 4 4 = ⟨p⟩ := ⟨_, rfl⟩
  obtain ⟨q, hq⟩ : ∃ q : Fin (2 ^ 4), v.extractLsb' 0 4 = ⟨q⟩ := ⟨_, rfl⟩
  rw [hp, hq]
  clear hp hq v
  revert b p q
  decide +kernel

/-- A split 6-bit displacement and Base lie in bits 11:0. -/
theorem placeBase_and (b : Fin 16) (base : Fin 4) (v : BitVec 6) : placeBase b base v &&& 0xF000 = 0 := by
  unfold placeBase
  obtain ⟨p, hp⟩ : ∃ p : Fin (2 ^ 4), v.extractLsb' 2 4 = ⟨p⟩ := ⟨_, rfl⟩
  obtain ⟨q, hq⟩ : ∃ q : Fin (2 ^ 2), v.extractLsb' 0 2 = ⟨q⟩ := ⟨_, rfl⟩
  rw [hp, hq]
  clear hp hq v
  revert b base p q
  decide +kernel

/-- One field below zero opcode bits. -/
theorem zero_append_and {n m : Nat} (v : BitVec n) (mask : BitVec (m + n))
    (hm : ∀ k < m + n, mask.getLsbD k = true → n ≤ k) : (0#m ++ v) &&& mask = 0 := by
  apply BitVec.eq_of_getLsbD_eq
  intro k hk
  rw [BitVec.getLsbD_and, BitVec.getLsbD_append]
  by_cases h : k < n
  · have hk : mask.getLsbD k = false := by
      by_contra hc
      have := hm k hk (by simpa using hc)
      omega
    simp [hk]
  · simp [h]

end Sys2Proof

namespace Sys2Proof.Laws.OperandBits

/-- The operand fields stand outside the opcode bits; a second halfword is there exactly if the form is
extended. -/
def Statement (i : Instr) : Prop :=
  i.operands &&& i.form.mask = 0 ∧ (i.second.length = if i.form.extended then 1 else 0)

theorem adCP (rb ra : Reg) : Statement (.adCP rb ra) := ⟨Sys2Proof.placeBA_and .., rfl⟩
theorem add (rb ra : Reg) : Statement (.add rb ra) := ⟨Sys2Proof.placeBA_and .., rfl⟩
theorem addI (rb : Reg) (imm : Nat) : Statement (.addI rb imm) :=
  ⟨Sys2Proof.placeImm8_and .., rfl⟩
theorem addC (rb ra : Reg) : Statement (.addC rb ra) := ⟨Sys2Proof.placeBA_and .., rfl⟩
theorem addP (rb ra : Reg) : Statement (.addP rb ra) := ⟨Sys2Proof.placeBA_and .., rfl⟩
theorem adPC (ra : Reg) : Statement (.adPC ra) := ⟨Sys2Proof.placeA_and .., rfl⟩
theorem and (rb ra : Reg) : Statement (.and rb ra) := ⟨Sys2Proof.placeBA_and .., rfl⟩
theorem andC (rb ra : Reg) : Statement (.andC rb ra) := ⟨Sys2Proof.placeBA_and .., rfl⟩
theorem bcc (cc : Cc) (disp : Int) : Statement (.bcc cc disp) := by
  refine ⟨?_, rfl⟩
  show (0#3 ++ bits4 cc.field ++ BitVec.ofInt 9 disp : BitVec (3 + 4 + 9)) &&& 0xE000 = 0
  obtain ⟨q, hq⟩ : ∃ q : Fin (2 ^ 9), BitVec.ofInt 9 disp = ⟨q⟩ := ⟨_, rfl⟩
  rw [hq]
  generalize cc.field = b
  clear hq
  revert b q
  decide +kernel
theorem cdc (ra : Reg) : Statement (.cdc ra) := ⟨Sys2Proof.placeA_and .., rfl⟩
theorem clrF (ra : Reg) : Statement (.clrF ra) := ⟨Sys2Proof.placeA_and .., rfl⟩
theorem clrM (bit : Fin 16) : Statement (.clrM bit) := ⟨Sys2Proof.placeA_and .., rfl⟩
theorem clz (rb ra : Reg) : Statement (.clz rb ra) := ⟨Sys2Proof.placeBA_and .., rfl⟩
theorem cmp (rb ra : Reg) : Statement (.cmp rb ra) := ⟨Sys2Proof.placeBA_and .., rfl⟩
theorem cmpI (rb : Reg) (imm : Nat) : Statement (.cmpI rb imm) :=
  ⟨Sys2Proof.placeImm8_and .., rfl⟩
theorem cmpP (rb ra : Reg) : Statement (.cmpP rb ra) := ⟨Sys2Proof.placeBA_and .., rfl⟩
theorem dep (rb ra : Reg) : Statement (.dep rb ra) := ⟨Sys2Proof.placeBA_and .., rfl⟩
theorem div (rb ra : Reg) : Statement (.div rb ra) := ⟨Sys2Proof.placeBA_and .., rfl⟩
theorem dSh (rb ra : Reg) : Statement (.dSh rb ra) := ⟨Sys2Proof.placeBA_and .., rfl⟩
theorem extS (rb ra : Reg) : Statement (.extS rb ra) := ⟨Sys2Proof.placeBA_and .., rfl⟩
theorem extU (rb ra : Reg) : Statement (.extU rb ra) := ⟨Sys2Proof.placeBA_and .., rfl⟩
theorem fdc (ra : Reg) : Statement (.fdc ra) := ⟨Sys2Proof.placeA_and .., rfl⟩
theorem idc (ra : Reg) : Statement (.idc ra) := ⟨Sys2Proof.placeA_and .., rfl⟩
theorem iic (ra : Reg) : Statement (.iic ra) := ⟨Sys2Proof.placeA_and .., rfl⟩
theorem iicA : Statement .iicA := ⟨rfl, rfl⟩
theorem ins (rb ra : Reg) : Statement (.ins rb ra) := ⟨Sys2Proof.placeBA_and .., rfl⟩
theorem int (puMask : BitVec 4) : Statement (.int puMask) := ⟨Sys2Proof.placeA_and .., rfl⟩
theorem itlb : Statement .itlb := ⟨rfl, rfl⟩
theorem jmpR (disp : Int) : Statement (.jmpR disp) :=
  ⟨zero_append_and (m := 4) (BitVec.ofInt 12 disp) 0xF000 (by decide), rfl⟩
theorem jmpA (ra : Reg) : Statement (.jmpA ra) := ⟨Sys2Proof.placeA_and .., rfl⟩
theorem jmpL (ra : Reg) : Statement (.jmpL ra) := ⟨Sys2Proof.placeA_and .., rfl⟩
theorem lcc (rb : Reg) (cc : Cc) : Statement (.lcc rb cc) := ⟨Sys2Proof.placeBA_and .., rfl⟩
theorem ld (rb : Reg) (imm : Nat) : Statement (.ld rb imm) := ⟨Sys2Proof.placeImm8_and .., rfl⟩
theorem ldB (d p : Reg) : Statement (.ldB d p) := ⟨Sys2Proof.placeBA_and .., rfl⟩
theorem ldCP (ra : Reg) : Statement (.ldCP ra) := ⟨Sys2Proof.placeA_and .., rfl⟩
theorem ldM (rb ra : Reg) : Statement (.ldM rb ra) := ⟨Sys2Proof.placeBA_and .., rfl⟩
theorem ldWB (rb : Reg) (base : Fin 4) (disp : Nat) : Statement (.ldWB rb base disp) :=
  ⟨Sys2Proof.placeBase_and .., rfl⟩
theorem ldWD (rb : Reg) (disp : Nat) : Statement (.ldWD rb disp) :=
  ⟨Sys2Proof.placeImm8_and .., rfl⟩
theorem ldWR (rb ra : Reg) : Statement (.ldWR rb ra) := ⟨Sys2Proof.placeBA_and .., rfl⟩
theorem ldWE (rb ra : Reg) (disp : Nat) : Statement (.ldWE rb ra disp) :=
  ⟨Sys2Proof.placeBA_and .., rfl⟩
theorem mov (rb ra : Reg) : Statement (.mov rb ra) := ⟨Sys2Proof.placeBA_and .., rfl⟩
theorem movTS (rb : Reg) (sp : SReg) : Statement (.movTS rb sp) := ⟨Sys2Proof.placeBA_and .., rfl⟩
theorem movFS (rb : Reg) (sp : SReg) : Statement (.movFS rb sp) := ⟨Sys2Proof.placeBA_and .., rfl⟩
theorem mskI (pos : Fin 32) (len : Nat) : Statement (.mskI pos len) := by
  refine ⟨?_, rfl⟩
  show (0#6 ++ BitVec.ofNat 5 pos.val ++ BitVec.ofNat 5 (len - 1) : BitVec (6 + 5 + 5)) &&& 0xFC00 = 0
  obtain ⟨q, hq⟩ : ∃ q : Fin (2 ^ 5), BitVec.ofNat 5 (len - 1) = ⟨q⟩ := ⟨_, rfl⟩
  rw [hq]
  clear hq
  revert pos q
  decide +kernel
theorem mskR (ra : Reg) (len : Nat) : Statement (.mskR ra len) := by
  refine ⟨?_, rfl⟩
  show (0#7 ++ BitVec.ofNat 5 (len - 1) ++ bits4 ra : BitVec (7 + 5 + 4)) &&& 0xFE00 = 0
  obtain ⟨q, hq⟩ : ∃ q : Fin (2 ^ 5), BitVec.ofNat 5 (len - 1) = ⟨q⟩ := ⟨_, rfl⟩
  rw [hq]
  clear hq
  revert ra q
  decide +kernel
theorem mul (rb ra : Reg) : Statement (.mul rb ra) := ⟨Sys2Proof.placeBA_and .., rfl⟩
theorem mulP (rb ra : Reg) : Statement (.mulP rb ra) := ⟨Sys2Proof.placeBA_and .., rfl⟩
theorem neg (rb ra : Reg) : Statement (.neg rb ra) := ⟨Sys2Proof.placeBA_and .., rfl⟩
theorem not (rb ra : Reg) : Statement (.not rb ra) := ⟨Sys2Proof.placeBA_and .., rfl⟩
theorem or (rb ra : Reg) : Statement (.or rb ra) := ⟨Sys2Proof.placeBA_and .., rfl⟩
theorem pdc (ra : Reg) : Statement (.pdc ra) := ⟨Sys2Proof.placeA_and .., rfl⟩
theorem picA (ra : Reg) : Statement (.picA ra) := ⟨Sys2Proof.placeA_and .., rfl⟩
theorem picR (disp : Int) : Statement (.picR disp) :=
  ⟨zero_append_and (m := 7) (BitVec.ofInt 9 disp) 0xFE00 (by decide), rfl⟩
theorem rdtx (rb ra : Reg) : Statement (.rdtx rb ra) := ⟨Sys2Proof.placeBA_and .., rfl⟩
theorem res (puMask : BitVec 4) : Statement (.res puMask) := ⟨Sys2Proof.placeA_and .., rfl⟩
theorem rsm (puMask : BitVec 4) : Statement (.rsm puMask) := ⟨Sys2Proof.placeA_and .., rfl⟩
theorem rtI : Statement .rtI := ⟨rfl, rfl⟩
theorem sbCP (rb ra : Reg) : Statement (.sbCP rb ra) := ⟨Sys2Proof.placeBA_and .., rfl⟩
theorem send (rb : Reg) (puMask : BitVec 4) : Statement (.send rb puMask) :=
  ⟨Sys2Proof.placeBA_and .., rfl⟩
theorem setF (ra : Reg) : Statement (.setF ra) := ⟨Sys2Proof.placeA_and .., rfl⟩
theorem setM (bit : Fin 16) : Statement (.setM bit) := ⟨Sys2Proof.placeA_and .., rfl⟩
theorem shL (rb : Reg) (amt : Fin 32) : Statement (.shL rb amt) :=
  ⟨by revert rb amt; decide +kernel, rfl⟩
theorem shR (ra : Reg) (amt : Fin 32) : Statement (.shR ra amt) :=
  ⟨by revert ra amt; decide +kernel, rfl⟩
theorem skcc (cc : Cc) : Statement (.skcc cc) := ⟨Sys2Proof.placeA_and .., rfl⟩
theorem stB (d p : Reg) : Statement (.stB d p) := ⟨Sys2Proof.placeBA_and .., rfl⟩
theorem stM (rb ra : Reg) : Statement (.stM rb ra) := ⟨Sys2Proof.placeBA_and .., rfl⟩
theorem strt (rb : Reg) (puMask : BitVec 4) : Statement (.strt rb puMask) :=
  ⟨Sys2Proof.placeBA_and .., rfl⟩
theorem stWB (rb : Reg) (base : Fin 4) (disp : Nat) : Statement (.stWB rb base disp) :=
  ⟨Sys2Proof.placeBase_and .., rfl⟩
theorem stWD (rb : Reg) (disp : Nat) : Statement (.stWD rb disp) :=
  ⟨Sys2Proof.placeImm8_and .., rfl⟩
theorem stWR (rb base : Reg) : Statement (.stWR rb base) := ⟨Sys2Proof.placeBA_and .., rfl⟩
theorem stWE (rb base : Reg) (disp : Nat) : Statement (.stWE rb base disp) :=
  ⟨Sys2Proof.placeBA_and .., rfl⟩
theorem sub (rb ra : Reg) : Statement (.sub rb ra) := ⟨Sys2Proof.placeBA_and .., rfl⟩
theorem subI (rb : Reg) (imm : Nat) : Statement (.subI rb imm) := ⟨Sys2Proof.placeBA_and .., rfl⟩
theorem subC (rb ra : Reg) : Statement (.subC rb ra) := ⟨Sys2Proof.placeBA_and .., rfl⟩
theorem subP (rb ra : Reg) : Statement (.subP rb ra) := ⟨Sys2Proof.placeBA_and .., rfl⟩
theorem trap (num : Fin 16) : Statement (.trap num) := ⟨Sys2Proof.placeA_and .., rfl⟩
theorem tstF (ra : Reg) : Statement (.tstF ra) := ⟨Sys2Proof.placeA_and .., rfl⟩
theorem tstM (bit : Fin 16) : Statement (.tstM bit) := ⟨Sys2Proof.placeA_and .., rfl⟩
theorem udc (ra : Reg) : Statement (.udc ra) := ⟨Sys2Proof.placeA_and .., rfl⟩
theorem vdc (ra : Reg) : Statement (.vdc ra) := ⟨Sys2Proof.placeA_and .., rfl⟩
theorem wait (puMask : BitVec 4) : Statement (.wait puMask) := ⟨Sys2Proof.placeA_and .., rfl⟩
theorem xOr (rb ra : Reg) : Statement (.xOr rb ra) := ⟨Sys2Proof.placeBA_and .., rfl⟩

end Sys2Proof.Laws.OperandBits
end

