-- ==== Sys2Proof/Tests/Slice0.lean ====
section
/-! SUPPORT. Our own tests: the smoke tests of WellFormed, one word written out from the spec's encoding for
every constructor, single steps whose expected values come from spec/95_test_vectors.md or from a hand
calculation by the rules, and for every statement of Certificates/Slice0/Obligations.lean a state that meets
its hypotheses. -/

open Sys2Proof Sys2Proof.Machine

namespace Sys2Proof.Tests

set_option Elab.async false

/-! ### Ill-formed terms are refused -/

theorem test_wf_refuses_imm_high : (Instr.addI 4 257).wf = false := by decide
theorem test_wf_refuses_imm_zero : (Instr.cmpI 4 0).wf = false := by decide
theorem test_wf_refuses_ld_displacement : (Instr.ld 4 257).wf = false := by decide
theorem test_wf_refuses_imm4_high : (Instr.subI 4 17).wf = false := by decide
theorem test_wf_refuses_imm4_zero : (Instr.subI 4 0).wf = false := by decide
theorem test_wf_refuses_disp9_high : (Instr.bcc .ne 256).wf = false := by decide
theorem test_wf_refuses_disp9_low : (Instr.picR (-257)).wf = false := by decide
theorem test_wf_refuses_disp12_high : (Instr.jmpR 2048).wf = false := by decide
theorem test_wf_refuses_disp12_low : (Instr.jmpR (-2049)).wf = false := by decide
theorem test_wf_refuses_disp6_high : (Instr.ldWB 1 2 65).wf = false := by decide
theorem test_wf_refuses_disp6_zero : (Instr.stWB 1 2 0).wf = false := by decide
theorem test_wf_refuses_disp8 : (Instr.ldWD 3 256).wf = false ∧ (Instr.stWD 3 256).wf = false := by decide
theorem test_wf_refuses_disp16_high : (Instr.ldWE 1 2 65537).wf = false := by decide
theorem test_wf_refuses_disp16_zero : (Instr.stWE 1 2 0).wf = false := by decide
theorem test_wf_refuses_len : (Instr.mskI 0 33).wf = false ∧ (Instr.mskR 0 0).wf = false := by decide
theorem test_wf_accepts : (Instr.addI 4 256).wf = true ∧ (Instr.jmpR (-2048)).wf = true := by decide

/-! ### Decoding: the words are written out from 30_encoding.md and the opcode table -/

/-- What one step from reset leaves, an instruction's words placed where it fetches. -/
def stepped {α : Type} (nbits w : Nat) (f : State → α) : Option α :=
  match step (State.reset.withFetchWord nbits w) with
  | .next t => some (f t)
  | .fault _ => none
  | .refused _ => none

/-- AddI R4, 77 (imm-1 = 0x4C in bits 11:8 and 3:0) runs as the first instruction after reset. -/
theorem test_step_addI : stepped 16 0xD44C (fun t => (t.pu0.reg 4, t.pu0.pc, t.pu0.npc)) =
    some (77, 0xF9, 0xFA) := by decide +kernel
/-- LdWE takes its second halfword (bits 31:16 of the table word). -/
theorem test_decode_table_two_words :
    decodeTableWord 32 0xFFFF40CD = some (.ldWE 12 13 65536) := by decide +kernel
theorem test_opcodes_legal : defaultOpcodes.legal = true := by decide +kernel
theorem test_decode_adCP : decode defaultOpcodes [0x5312] = .ok (.adCP 1 2, []) := by rfl
theorem test_decode_add : decode defaultOpcodes [0x5247] = .ok (.add 4 7, []) := by rfl
theorem test_decode_addI : decode defaultOpcodes [0xD47C] = .ok (.addI 7 77, []) := by rfl
theorem test_decode_addC : decode defaultOpcodes [0x51A1] = .ok (.addC 10 1, []) := by rfl
theorem test_decode_addP : decode defaultOpcodes [0x50D6] = .ok (.addP 13 6, []) := by rfl
theorem test_decode_adPC : decode defaultOpcodes [0x2AFB] = .ok (.adPC 11, []) := by rfl
theorem test_decode_and : decode defaultOpcodes [0x4F30] = .ok (.and 3 0, []) := by rfl
theorem test_decode_andC : decode defaultOpcodes [0x4E65] = .ok (.andC 6 5, []) := by rfl
theorem test_decode_bcc : decode defaultOpcodes [0xF3FD] = .ok (.bcc .ne (-3), []) := by rfl
theorem test_decode_cdc : decode defaultOpcodes [0x2AEF] = .ok (.cdc 15, []) := by rfl
theorem test_decode_clrF : decode defaultOpcodes [0x2AD4] = .ok (.clrF 4, []) := by rfl
theorem test_decode_clrM : decode defaultOpcodes [0x2ACC] = .ok (.clrM 12, []) := by rfl
theorem test_decode_clz : decode defaultOpcodes [0x4D5E] = .ok (.clz 5 14, []) := by rfl
theorem test_decode_cmp : decode defaultOpcodes [0x4C83] = .ok (.cmp 8 3, []) := by rfl
theorem test_decode_cmpI : decode defaultOpcodes [0xC4BC] = .ok (.cmpI 11 77, []) := by rfl
theorem test_decode_cmpP : decode defaultOpcodes [0x4BED] = .ok (.cmpP 14 13, []) := by rfl
theorem test_decode_dep : decode defaultOpcodes [0x4A12] = .ok (.dep 1 2, []) := by rfl
theorem test_decode_div : decode defaultOpcodes [0x4947] = .ok (.div 4 7, []) := by rfl
theorem test_decode_dSh : decode defaultOpcodes [0x487C] = .ok (.dSh 7 12, []) := by rfl
theorem test_decode_extS : decode defaultOpcodes [0x47A1] = .ok (.extS 10 1, []) := by rfl
theorem test_decode_extU : decode defaultOpcodes [0x46D6] = .ok (.extU 13 6, []) := by rfl
theorem test_decode_fdc : decode defaultOpcodes [0x2ABB] = .ok (.fdc 11, []) := by rfl
theorem test_decode_idc : decode defaultOpcodes [0x2AA0] = .ok (.idc 0, []) := by rfl
theorem test_decode_iic : decode defaultOpcodes [0x2A95] = .ok (.iic 5, []) := by rfl
theorem test_decode_iicA : decode defaultOpcodes [0x297F] = .ok (.iicA, []) := by rfl
theorem test_decode_ins : decode defaultOpcodes [0x45CF] = .ok (.ins 12 15, []) := by rfl
theorem test_decode_int : decode defaultOpcodes [0x2A89] = .ok (.int 9, []) := by rfl
theorem test_decode_itlb : decode defaultOpcodes [0x297E] = .ok (.itlb, []) := by rfl
theorem test_decode_jmpR : decode defaultOpcodes [0xB800] = .ok (.jmpR (-2048), []) := by rfl
theorem test_decode_jmpA : decode defaultOpcodes [0x2A73] = .ok (.jmpA 3, []) := by rfl
theorem test_decode_jmpL : decode defaultOpcodes [0x2A68] = .ok (.jmpL 8, []) := by rfl
theorem test_decode_lcc : decode defaultOpcodes [0x44ED] = .ok (.lcc 14 .hi, []) := by rfl
theorem test_decode_ld : decode defaultOpcodes [0xA41C] = .ok (.ld 1 77, []) := by rfl
theorem test_decode_ldB : decode defaultOpcodes [0x4347] = .ok (.ldB 4 7, []) := by rfl
theorem test_decode_ldCP : decode defaultOpcodes [0x2A5C] = .ok (.ldCP 12, []) := by rfl
theorem test_decode_ldM : decode defaultOpcodes [0x42A1] = .ok (.ldM 10 1, []) := by rfl
theorem test_decode_ldWB : decode defaultOpcodes [0x9FDE] = .ok (.ldWB 13 2 64, []) := by rfl
theorem test_decode_ldWD : decode defaultOpcodes [0x850A] = .ok (.ldWD 0 90, []) := by rfl
theorem test_decode_ldWR : decode defaultOpcodes [0x4130] = .ok (.ldWR 3 0, []) := by rfl
theorem test_decode_ldWE : decode defaultOpcodes [0x4065, 0xFFFF] = .ok (.ldWE 6 5 65536, []) := by rfl
theorem test_decode_mov : decode defaultOpcodes [0x3F9A] = .ok (.mov 9 10, []) := by rfl
theorem test_decode_movTS : decode defaultOpcodes [0x3ECF] = .ok (.movTS 12 .pageTableOrigin, []) := by rfl
theorem test_decode_movFS : decode defaultOpcodes [0x3DF4] = .ok (.movFS 15 .test, []) := by rfl
theorem test_decode_mskI : decode defaultOpcodes [0x5E67] = .ok (.mskI 19 8, []) := by rfl
theorem test_decode_mskR : decode defaultOpcodes [0x5BFE] = .ok (.mskR 14 32, []) := by rfl
theorem test_decode_mul : decode defaultOpcodes [0x3C83] = .ok (.mul 8 3, []) := by rfl
theorem test_decode_mulP : decode defaultOpcodes [0x3BB8] = .ok (.mulP 11 8, []) := by rfl
theorem test_decode_neg : decode defaultOpcodes [0x3AED] = .ok (.neg 14 13, []) := by rfl
theorem test_decode_not : decode defaultOpcodes [0x3912] = .ok (.not 1 2, []) := by rfl
theorem test_decode_or : decode defaultOpcodes [0x3847] = .ok (.or 4 7, []) := by rfl
theorem test_decode_pdc : decode defaultOpcodes [0x2A4C] = .ok (.pdc 12, []) := by rfl
theorem test_decode_picA : decode defaultOpcodes [0x2A31] = .ok (.picA 1, []) := by rfl
theorem test_decode_picR : decode defaultOpcodes [0x5900] = .ok (.picR (-256), []) := by rfl
theorem test_decode_rdtx : decode defaultOpcodes [0x370B] = .ok (.rdtx 0 11, []) := by rfl
theorem test_decode_res : decode defaultOpcodes [0x2A29] = .ok (.res 9, []) := by rfl
theorem test_decode_rsm : decode defaultOpcodes [0x2A19] = .ok (.rsm 9, []) := by rfl
theorem test_decode_rtI : decode defaultOpcodes [0x297D] = .ok (.rtI, []) := by rfl
theorem test_decode_sbCP : decode defaultOpcodes [0x36CF] = .ok (.sbCP 12 15, []) := by rfl
theorem test_decode_send : decode defaultOpcodes [0x35F6] = .ok (.send 15 6, []) := by rfl
theorem test_decode_setF : decode defaultOpcodes [0x2A09] = .ok (.setF 9, []) := by rfl
theorem test_decode_setM : decode defaultOpcodes [0x29FC] = .ok (.setM 12, []) := by rfl
theorem test_decode_shL : decode defaultOpcodes [0x578B] = .ok (.shL 8 5, []) := by rfl
theorem test_decode_shR : decode defaultOpcodes [0x5558] = .ok (.shR 8 21, []) := by rfl
theorem test_decode_skcc : decode defaultOpcodes [0x29E6] = .ok (.skcc .ov, []) := by rfl
theorem test_decode_stB : decode defaultOpcodes [0x3412] = .ok (.stB 1 2, []) := by rfl
theorem test_decode_stM : decode defaultOpcodes [0x3347] = .ok (.stM 4 7, []) := by rfl
theorem test_decode_strt : decode defaultOpcodes [0x3276] = .ok (.strt 7 6, []) := by rfl
theorem test_decode_stWB : decode defaultOpcodes [0x79A1] = .ok (.stWB 10 1 37, []) := by rfl
theorem test_decode_stWD : decode defaultOpcodes [0x6FDF] = .ok (.stWD 13 255, []) := by rfl
theorem test_decode_stWR : decode defaultOpcodes [0x310B] = .ok (.stWR 0 11, []) := by rfl
theorem test_decode_stWE : decode defaultOpcodes [0x3030, 0x0FFF] = .ok (.stWE 3 0 4096, []) := by rfl
theorem test_decode_sub : decode defaultOpcodes [0x2F65] = .ok (.sub 6 5, []) := by rfl
theorem test_decode_subI : decode defaultOpcodes [0x2E9F] = .ok (.subI 9 16, []) := by rfl
theorem test_decode_subC : decode defaultOpcodes [0x2DCF] = .ok (.subC 12 15, []) := by rfl
theorem test_decode_subP : decode defaultOpcodes [0x2CF4] = .ok (.subP 15 4, []) := by rfl
theorem test_decode_trap : decode defaultOpcodes [0x29DC] = .ok (.trap 12, []) := by rfl
theorem test_decode_tstF : decode defaultOpcodes [0x29CE] = .ok (.tstF 14, []) := by rfl
theorem test_decode_tstM : decode defaultOpcodes [0x29BC] = .ok (.tstM 12, []) := by rfl
theorem test_decode_udc : decode defaultOpcodes [0x29A8] = .ok (.udc 8, []) := by rfl
theorem test_decode_vdc : decode defaultOpcodes [0x299D] = .ok (.vdc 13, []) := by rfl
theorem test_decode_wait : decode defaultOpcodes [0x2989] = .ok (.wait 9, []) := by rfl
theorem test_decode_xOr : decode defaultOpcodes [0x2B47] = .ok (.xOr 4 7, []) := by rfl

/-! ### One instruction on a small state; expected values from 95_test_vectors.md and the rules' examples -/

/-- The executing PU's registers `l`, its SSCR `sscr`, and memory words `m` at word addresses. -/
def small (l : List (Reg × Word)) (sscr : Word := 0) (m : List (Nat × Word) := []) : State :=
  let u := l.foldl (fun (u : PU) x => u.putDest (.gpr x.1) x.2) { State.reset.pu0 with sscr := sscr }
  { State.reset with
    pu0 := u
    mem := m.foldl (fun mem x => writeWord .big mem (4 * x.1) x.2) [] }

/-- A small state with a field definition in S0. -/
def smallField (pos left : Fin 32) (l : List (Reg × Word)) (sscr : Word := 0) : State :=
  (small l sscr).modCpu (fun u => { u with mask := .field pos left })

/-- What `f` reads of the next state, if there is one. -/
def after {α : Type} (i : Instr) (s : State) (f : State → α) : Option α :=
  match exec i s with
  | .next t => some (f t)
  | .fault _ => none
  | .refused _ => none

/-- A register and the condition codes Z N V C0 C1 C2 C3 as bits 0 to 6. -/
def regFlags (r : Reg) (t : State) : Word × Word := (t.cpu.reg r, (t.cpu.sscr >>> 16) &&& 0x7F)

/-- The program counters. -/
def pcs (t : State) : HAddr × HAddr := (t.cpu.pc, t.cpu.npc)

/-- The word at a word address. -/
def wordAt (a : Nat) (t : State) : Word := readWord .big t.mem (4 * a)

theorem test_add_sign : after (.add 1 2) (small [(1, 0x7FFFFFFF), (2, 1)]) (regFlags 1) =
    some (0x80000000, 0x04) := by decide +kernel
theorem test_add_all_flags : after (.add 1 2) (small [(1, 0x80000000), (2, 0x80000000)]) (regFlags 1) =
    some (0, 0x0F) := by decide +kernel
theorem test_addI_wrap : after (.addI 4 256) (small [(4, 0xFFFFFF00)]) (regFlags 4) =
    some (0, 0x09) := by decide +kernel
theorem test_addC_carry_in : after (.addC 1 2) (small [(1, 0xFFFFFFFF)] 0x00080000) (regFlags 1) =
    some (0, 0x09) := by decide +kernel
theorem test_addC_clears_c1 : after (.addC 1 2) (small [(1, 1), (2, 2)] 0x00100000) (regFlags 1) =
    some (3, 0) := by decide +kernel
theorem test_sub_true_sign : after (.sub 1 2) (small [(1, 0x80000000), (2, 1)]) (regFlags 1) =
    some (0x7FFFFFFF, 0x0E) := by decide +kernel
theorem test_sub_overflow_up : after (.sub 1 2) (small [(1, 0x7FFFFFFF), (2, 0xFFFFFFFF)]) (regFlags 1) =
    some (0x80000000, 0x04) := by decide +kernel
theorem test_subI_borrow : after (.subI 3 16) (small []) (regFlags 3) =
    some (0xFFFFFFF0, 0x02) := by decide +kernel
theorem test_subC_borrow_in : after (.subC 1 2) (small [(1, 5), (2, 2)]) (regFlags 1) =
    some (2, 0x08) := by decide +kernel
theorem test_neg_min : after (.neg 3 2) (small [(2, 0x80000000)]) (regFlags 3) =
    some (0x80000000, 0x04) := by decide +kernel
theorem test_neg_zero : after (.neg 3 2) (small [(3, 9)]) (regFlags 3) = some (0, 0x09) := by
  decide +kernel
theorem test_overflow_trap : after (.add 1 2) (small [(1, 0x7FFFFFFF), (2, 1)] 0x808)
    (fun t => (pcs t, t.cpu.qHead)) = some ((0xB8, 0xB9), 0xF8) := by
  simp only [after, exec, execAdd, State.commitAdd]
  cases Config.ovfCommit <;> decide +kernel
theorem test_clz : after (.clz 2 1) (small [(1, 0x00010000)] 0x007F0000) (regFlags 2) =
    some (15, 0x78) := by decide +kernel
theorem test_clz_negative : after (.clz 2 1) (small [(1, 0x80000000)]) (regFlags 2) =
    some (0, 0x02) := by decide +kernel
theorem test_addP_bytes : after (.addP 1 2) (small [(1, 0x01FF7F00), (2, 0x01010100)]) (regFlags 1) =
    some (0x02008000, 0x13) := by decide +kernel
theorem test_addP_halves : after (.addP 1 2) (small [(1, 0xFFFF7FFF), (2, 0x00010001)] 2) (regFlags 1) =
    some (0x00008000, 0x0B) := by decide +kernel
theorem test_adCP_bytes : after (.adCP 1 2) (small [(1, 0x00FF00FF)] 0x00680000) (regFlags 1) =
    some (0x01FF0100, 0x43) := by decide +kernel
theorem test_adCP_halves : after (.adCP 1 2) (small [(1, 0xFFFF0001), (2, 1)] 0x00080002) (regFlags 1) =
    some (0x00000002, 0x09) := by decide +kernel
theorem test_subP_bytes : after (.subP 1 2) (small [(1, 0x10203040), (2, 0x01300140)]) (regFlags 1) =
    some (0x0FF02F00, 0x6B) := by decide +kernel
theorem test_subP_halves : after (.subP 1 2) (small [(1, 0x00010000), (2, 0x00020000)] 2) (regFlags 1) =
    some (0xFFFF0000, 0x23) := by decide +kernel
theorem test_sbCP_bytes : after (.sbCP 1 2) (small [(1, 0x05050505), (2, 0x01010101)] 0x00280000)
    (regFlags 1) = some (0x04030403, 0x78) := by decide +kernel
theorem test_sbCP_halves : after (.sbCP 1 2) (small [(1, 0x00050005), (2, 0x00010001)] 0x00200002)
    (regFlags 1) = some (0x00030004, 0x28) := by decide +kernel
theorem test_cmpP_bytes : after (.cmpP 1 2) (small [(1, 0x41424344), (2, 0x43434343)]) (regFlags 1) =
    some (0x41424344, 0x63) := by decide +kernel
theorem test_mul_low : after (.mul 1 2) (small [(1, 3), (2, 5)] 0x007F0000) (regFlags 1) =
    some (15, 0x7F) := by decide +kernel
theorem test_mul_adds_product :
    after (.mul 1 2) ((small [(1, 3), (2, 5)] 4).modCpu (fun u => { u with product := 10 }))
      (fun t => (t.cpu.reg 1, t.cpu.flagF)) = some (25, false) := by decide +kernel
theorem test_div : after (.div 1 2) (small [(1, 100), (2, 7)])
    (fun t => (t.cpu.reg 1, t.cpu.remainder)) = some (14, 2) := by decide +kernel
theorem test_div_double :
    after (.div 1 2) ((small [(1, 0), (2, 16)] 4).modCpu (fun u => { u with remainder := 4 }))
      (fun t => (t.cpu.reg 1, t.cpu.remainder, t.cpu.flagF)) = some (0x40000000, 0, false) := by
  decide +kernel

/-! Compare, branch, skip -/

theorem test_cmp_less : after (.cmp 1 2) (small [(1, 3), (2, 5)]) (regFlags 1) = some (3, 0x02) := by
  decide +kernel
theorem test_cmp_signed : after (.cmp 1 2) (small [(1, 0x80000000), (2, 1)])
    (fun t => (t.cond .lt, t.cond .hi, t.cond .ov)) = some (true, true, false) := by decide +kernel
theorem test_cmpI_equal : after (.cmpI 1 256) (small [(1, 256)]) (regFlags 1) = some (256, 0x09) := by
  decide +kernel
theorem test_tstF : after (.tstF 5) (smallField 8 15 [(5, 0x00008000)] 0x00040000) (regFlags 5) =
    some (0x00008000, 0x02) := by decide +kernel
theorem test_tstM_saved :
    after (.tstM 12) ((small [] 0x00700000).modCpu (fun u => { u with statusSave := 0x1000 }))
      (regFlags 0) = some (0, 0x08) := by decide +kernel
theorem test_tstM_reserved : after (.tstM 5) (small [] 0x800) pcs = some (0xB0, 0xB1) := by
  decide +kernel
theorem test_bcc_taken : after (.bcc .eq (-4)) (small [] 0x00010000) pcs = some (0xF9, 0xF4) := by
  decide +kernel
theorem test_bcc_untaken : after (.bcc .eq (-4)) (small []) pcs = some (0xF9, 0xFA) := by
  decide +kernel
theorem test_jmpR : after (.jmpR 16) (small []) pcs = some (0xF9, 0x108) := by decide +kernel
theorem test_jmpA : after (.jmpA 4) (small [(4, 0xC0001236)]) pcs = some (0xF9, 0x1236) := by
  decide +kernel
theorem test_jmpL_reads_first : after (.jmpL 4) (small [(4, 0x4000)])
    (fun t => (pcs t, t.cpu.reg 4)) = some ((0xF9, 0x4000), 0xFA) := by decide +kernel
theorem test_taken_branch_trap : after (.jmpR 16) (small [] 0xC00)
    (fun t => (pcs t, t.cpu.qHead, t.cpu.qTail)) = some ((0xB0, 0xB1), 0xF9, 0x108) := by decide +kernel
theorem test_adPC : after (.adPC 6) (small [(6, 0x20)]) (fun t => t.cpu.reg 6) = some 0x119 := by
  decide +kernel
theorem test_skcc_met : after (.skcc .ne) (small []) (fun t => (pcs t, t.cpu.flagS)) =
    some ((0xF9, 0xFA), true) := by decide +kernel
theorem test_skcc_unmet : after (.skcc .ne) (small [] 0x00010000) (fun t => t.cpu.flagS) =
    some false := by decide +kernel

/-! Logic, shifts, fields -/

theorem test_and : after (.and 1 2) (small [(1, 0xF0F0), (2, 0xFF00)] 0x007F0000) (regFlags 1) =
    some (0xF000, 0x78) := by decide +kernel
theorem test_andC_self : after (.andC 1 1) (small [(1, 0xFFFF)]) (regFlags 1) = some (0, 0x01) := by
  decide +kernel
theorem test_or_keeps_v : after (.or 1 2) (small [(1, 0x0F), (2, 0x800000F0)] 0x00040000) (regFlags 1) =
    some (0x800000FF, 0x06) := by decide +kernel
theorem test_xOr : after (.xOr 1 2) (small [(1, 0xFF00), (2, 0x0FF0)]) (regFlags 1) =
    some (0xF0F0, 0) := by decide +kernel
theorem test_not : after (.not 2 1) (small []) (regFlags 2) = some (0xFFFFFFFF, 0x02) := by
  decide +kernel
theorem test_shL : after (.shL 1 1) (small [(1, 0x40000001)] 0x00040000) (regFlags 1) =
    some (0x80000002, 0x06) := by decide +kernel
theorem test_shR : after (.shR 1 31) (small [(1, 0x80000000)] 0x00020000) (regFlags 1) =
    some (1, 0) := by decide +kernel
theorem test_mskI_cut : after (.mskI 28 8) (small []) (fun t => t.cpu.mask.field?) =
    some (some (28, 31)) := by decide +kernel
theorem test_mskR_modulo : after (.mskR 3 4) (small [(3, 36)]) (fun t => t.cpu.mask.field?) =
    some (some (4, 7)) := by decide +kernel
theorem test_clrF : after (.clrF 1) (smallField 8 15 [(1, 0xFFFFFFFF)]) (regFlags 1) =
    some (0xFFFF00FF, 0) := by decide +kernel
theorem test_setF : after (.setF 1) (smallField 0 3 [(1, 0x100)]) (regFlags 1) = some (0x10F, 0) := by
  decide +kernel
theorem test_dep : after (.dep 2 1) (smallField 4 11 [(1, 0xFFFF), (2, 0x1FF)]) (regFlags 1) =
    some (0x00000FF0, 0) := by decide +kernel
theorem test_ins : after (.ins 2 1) (smallField 8 15 [(1, 0xAABBCCDD), (2, 0x11)]) (regFlags 1) =
    some (0xAABB11DD, 0x02) := by decide +kernel
theorem test_extU : after (.extU 2 1) (smallField 8 15 [(1, 0x12345678)]) (regFlags 2) =
    some (0x56, 0) := by decide +kernel
theorem test_extS : after (.extS 2 1) (smallField 8 15 [(1, 0x0000F600)]) (regFlags 2) =
    some (0xFFFFFFF6, 0x02) := by decide +kernel
theorem test_dSh : after (.dSh 2 1) (smallField 8 8 [(1, 0x12345678), (2, 0xAB)]) (regFlags 1) =
    some (0xAB123456, 0x02) := by decide +kernel

/-! Loads, stores, moves -/

theorem test_lcc : after (.lcc 3 .eq) (small [(3, 9)] 0x00010000) (regFlags 3) = some (1, 1) := by
  decide +kernel
theorem test_ld : after (.ld 2 256) (small [(2, 0xFFFFFFFF)]) (regFlags 2) = some (256, 0) := by
  decide +kernel
theorem test_ldB : after (.ldB 5 1) (small [(1, 0x40000010)] 0 [(0x10, 0xAABBCCDD)])
    (fun t => (t.cpu.reg 5, t.cpu.reg 1)) = some (0xBB, 0x80000010) := by decide +kernel
theorem test_ldB_last_byte : after (.ldB 5 1) (small [(1, 0xC0000010)] 0 [(0x10, 0xAABBCCDD)])
    (fun t => (t.cpu.reg 5, t.cpu.reg 1)) = some (0xDD, 0x00000011) := by decide +kernel
theorem test_stB : after (.stB 4 3) (small [(3, 0x00000010), (4, 0x12345678)] 0 [(0x10, 0xFFFFFFFF)])
    (fun t => (wordAt 0x10 t, t.cpu.reg 3)) = some (0x78FFFFFF, 0x40000010) := by decide +kernel
theorem test_ldCP : after (.ldCP 6) (small [] 0x00480000) (regFlags 6) = some (0x00FFFF00, 0x48) := by
  decide +kernel
theorem test_ldM : after (.ldM 3 15)
    (small [(15, 0x7FD)] 0 [(0x7FD, 1), (0x7FE, 2), (0x7FF, 3)])
    (fun t => (t.cpu.reg 1, t.cpu.reg 3, (t.transfers 2).cpu.reg 1, (t.transfers 2).cpu.reg 2,
      (t.transfers 2).cpu.reg 15)) = some (0, 3, 1, 2, 0x800) := by
  decide +kernel
theorem test_stM : after (.stM 3 15) (small [(1, 1), (2, 2), (3, 3), (15, 0x800)])
    (fun t => (wordAt 0x7FE t, wordAt 0x7FF t, pcs t, wordAt 0x7FD (t.transfers 2),
      (t.transfers 2).cpu.reg 15, pcs (t.transfers 2))) =
    some (0, 3, (0xF8, 0xF9), 1, 0x7FD, (0xF9, 0xFA)) := by decide +kernel
theorem test_ldWB : after (.ldWB 7 2 5) (small [(2, 0x200)] 0 [(0x205, 0xDEADBEEF)]) (regFlags 7) =
    some (0xDEADBEEF, 0) := by decide +kernel
theorem test_ldWR : after (.ldWR 9 9) (small [(9, 0xC0000300)] 0 [(0x300, 5)]) (regFlags 9) =
    some (5, 0) := by decide +kernel
theorem test_ldWE : after (.ldWE 1 12 4096) (small [(12, 0x1000)] 0 [(0x2000, 6)])
    (fun t => (t.cpu.reg 1, pcs t)) = some (6, (0xFA, 0xFB)) := by decide +kernel
theorem test_ldWD : after (.ldWD 1 0x20) (small [] 0 [(0x3FF00020, 7)]) (regFlags 1) = some (7, 0) := by
  decide +kernel
theorem test_ldWD_frozen : after (.ldWD 1 2) (small [(1, 4)]) (fun t => (pcs t, t.frozen .pu0, ({ t with sem0 := 4 } : State).frozen .pu0, t.cpu.reg 1)) =
    some ((0xF8, 0xF9), true, false, 4) := by decide +kernel
theorem test_stWB : after (.stWB 6 0 64) (small [(0, 0x10), (6, 0xCAFE)]) (wordAt 0x50) = some 0xCAFE := by
  decide +kernel
theorem test_stWR : after (.stWR 2 1) (small [(1, 0x44), (2, 7)]) (wordAt 0x44) = some 7 := by
  decide +kernel
theorem test_stWE : after (.stWE 1 13 65536) (small [(1, 1)]) (fun t => (wordAt 0x10000 t, pcs t)) =
    some (1, (0xFA, 0xFB)) := by decide +kernel
theorem test_stWD_semaphore : after (.stWD 5 2) (small [(5, 99)])
    (fun t => (wordAt 0x3FF00002 t, t.sem0)) = some (99, 4) := by decide +kernel
theorem test_mov : after (.mov 8 4) (small [(4, 9)]) (regFlags 8) = some (9, 0) := by decide +kernel
theorem test_movTS_remainder : after (.movTS 1 .remainder) (small [(1, 7)])
    (fun t => (t.cpu.remainder, t.cpu.flagF)) = some (7, true) := by decide +kernel
theorem test_movTS_queue :
    after (.movTS 1 .pcSaveQueue) ((small [(1, 0x50)]).modCpu (fun u => { u with qHead := 0x40, qTail := 0x41 }))
      (fun t => (t.cpu.qHead, t.cpu.qTail)) = some (0x41, 0x50) := by decide +kernel
theorem test_movFS_number : after (.movFS 0 .puNumber) { small [] with turn := .pu2 }
    (fun t => t.cpu.reg 0) = some 2 := by decide +kernel
theorem test_movFS_global : after (.movFS 0 .globalStatus) (small [] 0x800) (fun t => t.cpu.reg 0) =
    some 0x8882 := by decide +kernel

/-! Modes, traps, other PUs, caches -/

theorem test_setM_user : after (.setM 1) (small [] 0x1000) (fun t => t.cpu.sscr) = some 0x1002 := by
  decide +kernel
theorem test_setM_privileged : after (.setM 12) (small [] 0x1800) pcs = some (0xB0, 0xB1) := by
  decide +kernel
theorem test_clrM : after (.clrM 11) (small [] 0x808) (fun t => t.cpu.sscr) = some 8 := by decide +kernel
theorem test_trap : after (.trap 3) (small [] 0x1800)
    (fun t => (pcs t, t.cpu.statusSave, t.cpu.qHead, t.cpu.qTail)) =
    some ((0x18, 0x19), 0x1800, 0xF9, 0xFA) := by decide +kernel
theorem test_trap_disabled : after (.trap 3) (small []) pcs = some (0xF0, 0xF1) := by decide +kernel
theorem test_rtI_first :
    after .rtI ((small []).modCpu (fun u => { u with qHead := 0x500, qTail := 0x501 }))
      (fun t => (pcs t, t.cpu.qHead, t.cpu.rti1)) = some ((0xF9, 0x500), 0x501, true) := by decide +kernel
theorem test_rtI_second :
    after .rtI ((small []).modCpu (fun u =>
        { u with rti1 := true, npc := 0x500, qHead := 0x501, statusSave := 0x02011800 }))
      (fun t => (pcs t, t.cpu.sscr, t.cpu.rti1)) = some ((0x500, 0x501), 0x00011800, false) := by
  decide +kernel
theorem test_int_blocks : after (.int 6) (small []) (fun t => (pcs t, t.pu1.pendInter)) =
    some ((0xF8, 0xF9), false) := by decide +kernel
theorem test_int_pends : after (.int 1) (small [] 0x800) (fun t => (pcs t, t.pu0.pendInter)) =
    some ((0xF9, 0xFA), true) := by decide +kernel
theorem test_res : after (.res 8) (small []) (fun t => (t.pu3.pendRestart, t.pu2.pendRestart)) =
    some (true, false) := by decide +kernel
theorem test_wait_halts : after (.wait 0) (small []) (fun t => (pcs t, t.cpu.flagW)) =
    some ((0xF8, 0xF9), true) := by decide +kernel
theorem test_wait_rendezvous : after (.wait 6) (small []) (fun t => (pcs t, t.cpu.flagW)) =
    some ((0xF9, 0xFA), false) := by decide +kernel
theorem test_rsm : after (.rsm 2) { small [] with pu1 := { State.reset.pu1 with waitMask := some 0 } }
    (fun t => (t.pu1.pc, t.pu1.flagW)) = some (0xF9, false) := by decide +kernel
theorem test_strt : after (.strt 6 2) (small [(6, 0x2000)])
    (fun t => (t.pu1.pc, t.pu1.npc, t.pu1.flagW, t.pu2.flagW)) = some (0x2000, 0x2001, false, true) := by
  decide +kernel
theorem test_send_blocks : after (.send 6 2) { small [(6, 7)] with pu1 := State.reset.pu0 } pcs =
    some (0xF8, 0xF9) := by decide +kernel
theorem test_send : after (.send 6 2) (small [(6, 7)]) (fun t => (pcs t, t.pu1.flagW)) =
    some ((0xF9, 0xFA), true) := by decide +kernel
theorem test_itlb : after .itlb (small []) (fun t => t.tlb) = some [] := by decide +kernel
theorem test_rdtx_user : after (.rdtx 2 1) (small [] 0x1800) pcs = some (0xB0, 0xB1) := by decide +kernel

/-- A state whose data cache holds the line of word 0x40 modified: 9 stored over 5 in Main Memory. -/
def dirtyLine : State :=
  match exec (.stWR 2 1) (small [(1, 0x40), (2, 9)] 0 [(0x40, 5)]) with
  | .next t => t
  | .fault _ => small []
  | .refused _ => small []

/-- The word of Main Memory at a word address's line start. -/
def mainAt (a : Nat) (t : State) : List Byte := (t.mainLine (BitVec.ofNat 32 (4 * a))).take 4

theorem test_stW_leaves_main : (wordAt 0x40 dirtyLine, mainAt 0x40 dirtyLine) = (9, [0, 0, 0, 5]) := by
  decide +kernel
theorem test_fdc : after (.fdc 1) dirtyLine (fun t => (wordAt 0x40 t, mainAt 0x40 t)) =
    some (9, [0, 0, 0, 9]) := by decide +kernel
theorem test_idc : after (.idc 1) dirtyLine (fun t => (wordAt 0x40 t, mainAt 0x40 t)) =
    some (5, [0, 0, 0, 5]) := by decide +kernel
theorem test_udc : after (.udc 1) dirtyLine (fun t => (wordAt 0x40 t, mainAt 0x40 t)) =
    some (9, [0, 0, 0, 9]) := by decide +kernel
theorem test_vdc : after (.vdc 1) dirtyLine (fun t => (wordAt 0x40 t, mainAt 0x40 t)) =
    some (9, [0, 0, 0, 5]) := by decide +kernel
theorem test_cdc : after (.cdc 1) (small [(1, 0x40)])
    (fun t => (t.cacheSet 4).findWay 0x100) = some (some 0) := by decide +kernel
/-- A line that CDC made, whose word 0 nothing or something has stored: loads see 9 and 3 in its first two
words, Main Memory holds 5 and 7. -/
def createdLine (unstored : BitVec 16) : State :=
  { small [(1, 0x40), (2, 8)] 0 [(0x40, 9), (0x41, 3)] with
    dcache := putSet State.reset.dcache 4 (CacheSet.empty.put 0
      ⟨true, true, false, true, 0x100, some (readBytes (small [] 0 [(0x40, 5), (0x41, 7)]).mem 0x100 64), unstored⟩
      [1, 2, 3, 0]) }

/-- R290: the word stored is written back, and the words that nothing stored are not. -/
theorem test_fdc_created : after (.fdc 1) (createdLine 0xFFFE)
    (fun t => (mainAt 0x40 t, wordAt 0x40 t, wordAt 0x41 t)) = some ([0, 0, 0, 9], 9, 7) := by decide +kernel
theorem test_udc_created : after (.udc 1) (createdLine 0xFFFE)
    (fun t => ((t.mainLine 0x100).take 8, wordAt 0x41 t)) = some ([0, 0, 0, 9, 0, 0, 0, 7], 3) := by
  decide +kernel
/-- R290: after CDC no word is stored, and a store marks its own. -/
theorem test_cdc_unstored : after (.cdc 1) (small [(1, 0x40)])
    (fun t => ((t.cacheSet 4).way 0).unstored) = some 0xFFFF := by decide +kernel
theorem test_store_created : after (.stWB 2 1 1) (createdLine 0xFFFF)
    (fun t => ((t.cacheSet 4).way 0).unstored) = some 0xFFFD := by decide +kernel
theorem test_pdc_cached : after (.pdc 1) dirtyLine (fun t => (wordAt 0x40 t, mainAt 0x40 t)) =
    some (9, [0, 0, 0, 5]) := by decide +kernel
theorem test_iic : after (.iic 1) { small [(1, 0x40)] with icache := [⟨0x100, []⟩, ⟨0x200, []⟩] }
    (fun t => t.icache) = some [⟨0x200, []⟩] := by decide +kernel
theorem test_iicA : after .iicA { small [] with icache := [⟨0x100, []⟩] } (fun t => t.icache) = some [] := by
  decide +kernel
theorem test_picA_present :
    after (.picA 1) { small [(1, 0x40)] with icache := [⟨0x100, []⟩] } (fun t => t.icache) =
      some [⟨0x100, []⟩] := by decide +kernel
theorem test_picR_present :
    after (.picR 8) { small [] with icache := [⟨0x200, []⟩] } (fun t => (t.icache, pcs t)) =
      some ([⟨0x200, []⟩], (0xF9, 0xFA)) := by decide +kernel
theorem test_mulP_clears_f : after (.mulP 1 2) (small [(1, 3), (2, 5)] 4) (fun t => (pcs t, t.cpu.flagF)) =
    some ((0xF9, 0xFA), false) := by decide +kernel

/-! ### The hypotheses of the statements can be met -/

/-- A state whose PU stands at two halfwords in memory. -/
def placed (w1 w2 : Half) (sscr : Word := 0) : State :=
  { small [] sscr with
    mem := writeBytes [] 0x1F0 (bytesOfHalf .big w1 ++ bytesOfHalf .big w2) }

/-- The page of the TLB after reset. -/
def page : PageDesc := TlbEntry.identity.desc

/-- A page that system mode alone may use, and nobody may load from or store to. -/
def closedPage : PageDesc := ⟨26, 0, false, false, true, false⟩

/-- A state whose TLB maps every address to a page. -/
def mapped (d : PageDesc) (s : State) : State := { s with tlb := [⟨0, d⟩] }

/-- Nothing pending, running, not skipping, not frozen. -/
def Running (s : State) : Prop :=
  s.accepted = none ∧ s.cpu.flagW = false ∧ s.cpu.flagS = false ∧ s.frozen s.turn = false

/-- The same, with nothing left of an instruction. -/
def Ready (s : State) : Prop := Running s ∧ s.cpu.run = none

/-- A PU with nothing left of an instruction meets the condition on it. -/
theorem runWf_none {u : PU} (h : u.run = none) : u.RunWf := by
  unfold PU.RunWf
  rw [h]
  exact ⟨fun e => Bool.noConfusion e, fun _ e => by cases e⟩

/-- A state whose PU has something left of its instruction. -/
def holding (r : Rest) (s : State) : State := s.withRest (some r)

/-- In system mode no tag denies an access. -/
theorem identity_system {s : State} (h : s.tlb = [TlbEntry.identity]) (hu : s.cpu.flagU = false) :
    s.IdentityMap := ⟨h, fun pa k => by simp [State.tagDenies, hu]⟩

/-- The condition of `State.Coherent` as a check. -/
theorem coherent_of_ok {s : State} {pa : PAddr} (h : (s.fetchChoices pa).all (· == s.halfIn pa) = true) :
    s.Coherent pa := fun x hx => by simpa using List.all_eq_true.mp h x hx

/-- A data cache of which every entry is invalid is well formed. -/
theorem cacheWf_of_empty {s : State} (h : ∀ (i : Fin 16) (w : Fin 4), (s.cacheSet i).way w = CacheLine.empty)
    (ho : ∀ i : Fin 16, (s.cacheSet i).order = [0, 1, 2, 3]) : s.CacheWf := by
  intro i
  refine ⟨by rw [ho i], ?_, ?_⟩
  · intro w
    rw [h i w]
    refine ⟨?_, ?_, ?_⟩ <;> simp [CacheLine.empty]
  · intro v w hv
    rw [h i v] at hv
    cases hv

theorem small_cacheWf : (small [(1, 0x40)]).CacheWf :=
  cacheWf_of_empty (by decide +kernel) (by decide +kernel)

theorem test_witness_ResetState : (1#4).getLsbD PuId.pu0.number = true ∧
    (1#4).getLsbD PuId.pu3.number = false := by decide
theorem test_witness_DecodeOfEncode : defaultOpcodes.legal = true ∧ (Instr.addI 4 256).wf = true ∧
    (Instr.ldWE 3 15 65536).wf = true := by decide +kernel
theorem test_witness_DecodingIsUnambiguous : defaultOpcodes.legal = true ∧
    (0x5212 : Half) &&& Form.add.mask = 0x5200 ∧ (⟨.add, 0x5200⟩ : OpcodeRow) ∈ defaultOpcodes ∧
    decode defaultOpcodes [0x5212, 7] = .ok (.add 1 2, [7]) ∧
    (∀ r ∈ defaultOpcodes, (0x0000 : Half) &&& r.form.mask ≠ r.bits) := by decide +kernel
theorem test_witness_StepRunsDecoded :
    (let s0 := (placed 0x5212 0).beginStep
     let pa := pageAddress page (byteOfHalf s0.cpu.pc)
     Ready s0 ∧ s0.cpu.rti1 = false ∧ s0.Coherent pa ∧ s0.Allows (byteOfHalf s0.cpu.pc) .fetch page ∧
       decode s0.params.opcodes [s0.halfIn pa] = .ok (.add 1 2, [])) := by
  unfold Ready Running State.Allows
  exact ⟨by decide +kernel, by decide +kernel,
    coherent_of_ok (by decide +kernel), by decide +kernel, by decide +kernel⟩
/-- The three steps of a LdWE. -/
theorem test_witness_StepRunsDecoded_extended :
    (let s0 := (placed 0x40CD 0xFFFF).beginStep
     let pa := pageAddress page (byteOfHalf s0.cpu.pc)
     Ready s0 ∧ s0.cpu.rti1 = false ∧ s0.cpu.misplaced = false ∧ s0.Coherent pa ∧
       s0.Allows (byteOfHalf s0.cpu.pc) .fetch page ∧
       decode s0.params.opcodes [s0.halfIn pa] = .error .truncated) ∧
    (let s0 := (holding (.second 0x40CD) (placed 0x40CD 0xFFFF)).beginStep
     let pb := pageAddress page (byteOfHalf (pcAdd s0.cpu.pc 1))
     Running s0 ∧ s0.cpu.run = some (.second 0x40CD) ∧ s0.Coherent pb ∧
       s0.Allows (byteOfHalf (pcAdd s0.cpu.pc 1)) .fetch page ∧
       decode s0.params.opcodes [0x40CD, s0.halfIn pb] = .ok (.ldWE 12 13 65536, [])) ∧
    (let s0 := (holding (.access (.ldWE 12 13 65536)) (placed 0x40CD 0xFFFF)).beginStep
     Running s0 ∧ s0.cpu.run = some (.access (.ldWE 12 13 65536)) ∧ s0.cpu.rti1 = false) := by
  unfold Ready Running State.Allows
  refine ⟨⟨by decide +kernel, by decide +kernel, by decide +kernel, ?_, by decide +kernel, by decide +kernel⟩,
    ⟨by decide +kernel, by decide +kernel, ?_, by decide +kernel, by decide +kernel⟩, by decide +kernel⟩
  · exact coherent_of_ok (by decide +kernel)
  · exact coherent_of_ok (by decide +kernel)
theorem test_witness_StepRunsDecoded_pair :
    (let s0 := ({ placed 0x297D 0 with
                  pu0 := { (placed 0x297D 0).pu0 with rti1 := true } } : State).beginStep
     let pa := pageAddress page (byteOfHalf s0.cpu.pc)
     Ready s0 ∧ s0.cpu.rti1 = true ∧ s0.Coherent pa ∧ s0.Allows (byteOfHalf s0.cpu.pc) .fetch page ∧
       decode s0.params.opcodes [s0.halfIn pa] = .ok (.rtI, [])) := by
  unfold Ready Running State.Allows
  exact ⟨by decide +kernel, by decide +kernel,
    coherent_of_ok (by decide +kernel), by decide +kernel, by decide +kernel⟩
theorem test_witness_SkippedAndHaltedSlots :
    (let s0 := (placed 0x5212 0 0x08000000).beginStep
     s0.accepted = none ∧ s0.cpu.run = none ∧ s0.cpu.flagW = false ∧ s0.cpu.flagS = true ∧
       s0.atExtended = false) ∧
    (let s0 := (small [] 0x02000000).beginStep
     s0.accepted = none ∧ s0.cpu.run = none ∧ s0.cpu.flagW = true ∧ s0.cpu.waitMask = none) ∧
    (let s0 := (holding (.move ⟨true, 3, 15, 0, 2⟩) (small [])).beginStep
     s0.accepted = none ∧ s0.cpu.run = some (.move ⟨true, 3, 15, 0, 2⟩)) ∧
    (let s0 := ({ small [] with
        pu0 := { (small []).pu0 with waitSem := some ⟨false, 7, true⟩ } } : State).beginStep
     s0.accepted = none ∧ s0.cpu.run = none ∧ s0.cpu.flagW = false ∧ s0.cpu.flagS = false ∧
       s0.frozen s0.turn = true) := by decide +kernel
/-- The stepping PU is blocked in a Wait for PU 1, which runs, and then is halted. -/
theorem test_witness_SkippedAndHaltedSlots_wait :
    (let s := small [] 0x02000000
     let s0 := ({ s with pu0 := { s.pu0 with waitMask := some 2 }, pu1 := State.reset.pu0 } : State).beginStep
     s0.accepted = none ∧ s0.cpu.run = none ∧ ¬s0.WaitMet .pu0) ∧
    (let s := small [] 0x02000000
     let s0 := ({ s with pu0 := { s.pu0 with waitMask := some 2 } } : State).beginStep
     s0.accepted = none ∧ s0.cpu.run = none ∧ s0.WaitMet .pu0) := by
  refine ⟨⟨by decide +kernel, by decide +kernel, ?_⟩, by decide +kernel, by decide +kernel,
    by decide +kernel, 2, by decide +kernel, by decide, ?_⟩
  · rintro ⟨_, m, hm, _, h⟩
    obtain rfl : m = 2 := by
      have : some (2 : BitVec 4) = some m := hm
      exact (Option.some.inj this).symm
    have := h .pu1 (by decide)
    revert this
    decide +kernel
  · intro p
    cases p <;> decide +kernel
/-- LdWE stands in the skipped slot. -/
theorem test_witness_SkippedAndHaltedSlots_extended :
    (let s0 := (placed 0x40CD 0 0x08000000).beginStep
     s0.accepted = none ∧ s0.cpu.run = none ∧ s0.cpu.flagW = false ∧ s0.cpu.flagS = true ∧
       s0.Allows (byteOfHalf s0.cpu.pc) .fetch page ∧
       s0.Coherent (pageAddress page (byteOfHalf s0.cpu.pc)) ∧
       decode s0.params.opcodes [s0.halfIn (pageAddress page (byteOfHalf s0.cpu.pc))] =
         .error .truncated) := by
  unfold State.Allows
  exact ⟨by decide +kernel, by decide +kernel, by decide +kernel, by decide +kernel, by decide +kernel,
    coherent_of_ok (by decide +kernel), by decide +kernel⟩
/-- The page fault of these statements hangs on the walk of the page table, of which the source gives
nothing (L5); the protection fault shows that the hypotheses can be met. -/
theorem test_witness_FetchAndDecodeTraps :
    (let s0 := (mapped closedPage (placed 0 0 0x1800)).beginStep
     Ready s0 ∧ s0.cpu.flagU = true ∧ s0.pageOf (byteOfHalf s0.cpu.pc) = some closedPage ∧
       closedPage.user = false) ∧
    (let s0 := (placed 0 0).beginStep
     let pa := pageAddress page (byteOfHalf s0.cpu.pc)
     Ready s0 ∧ s0.Allows (byteOfHalf s0.cpu.pc) .fetch page ∧ s0.Coherent pa ∧
       decode s0.params.opcodes [s0.halfIn pa] = .error (.illegalOpcode 0)) := by
  unfold Ready Running State.Allows
  exact ⟨by decide +kernel, by decide +kernel, by decide +kernel,
    coherent_of_ok (by decide +kernel), by decide +kernel⟩
/-- The second halfword stands in a page closed to user mode. -/
theorem test_witness_FetchAndDecodeTraps_second :
    (let s0 := (mapped closedPage (holding (.second 0x40CD) (placed 0 0 0x1800))).beginStep
     Running s0 ∧ s0.cpu.run = some (.second 0x40CD) ∧ s0.cpu.flagU = true ∧
       s0.pageOf (byteOfHalf (pcAdd s0.cpu.pc 1)) = some closedPage ∧ closedPage.user = false) := by
  unfold Running
  decide +kernel

/-- A state in which interrupt `n` is accepted; the nonmaskable nondirected ones go to a halted PU. -/
def interrupted (n : Nat) : State :=
  let s := small [] 0x800
  match n with
  | 0x18 => { s with s14 := 0xC0000000 }
  | 0x19 => { s with s12 := 0x00C0 }
  | 0x1A => { s with pend := ⟨false, false, false, false, some 0x1234⟩ }
  | 0x1B => { s with pu0 := { s.pu0 with pendInter := true } }
  | 0x1C => { s with pend := ⟨false, false, false, true, none⟩, turn := .pu1 }
  | 0x1D => { s with pu0 := { s.pu0 with pendRestart := true } }
  | 0x1E => { s with pend := ⟨false, true, false, false, none⟩, turn := .pu1 }
  | _ => { s with pend := ⟨true, false, false, false, none⟩, turn := .pu1 }

theorem test_witness_InterruptTaken :
    ∀ n ∈ [0x18, 0x19, 0x1A, 0x1B, 0x1C, 0x1D, 0x1E, 0x1F],
      (interrupted n).beginStep.accepted = some (Fin.ofNat 32 n) ∧
      (interrupted n).beginStep.pu0.flagT = true := by decide +kernel
/-- A Reset, and a PU outside RESET_PUS that it halts. -/
theorem test_witness_InterruptTaken_reset : (interrupted 0x1F).beginStep.accepted = some 0x1F ∧
    (interrupted 0x1F).beginStep.params.resetPus.getLsbD PuId.pu0.number = true ∧
    (interrupted 0x1F).beginStep.params.resetPus.getLsbD PuId.pu1.number = false := by decide +kernel
theorem test_witness_InterruptSelection : (interrupted 0x18).accepted = some 0x18 ∧
    (interrupted 0x18).canAccept .pu0 0x18 = true ∧
    (interrupted 0x1C).deliverable .pu1 0x1C = true ∧ (interrupted 0x1C).canAccept .pu0 0x1C = true ∧
    ((interrupted 0x1C).pu .pu0).savedStatus.getLsbD 4 = false ∧
    ((interrupted 0x1C).pu .pu1).savedStatus.getLsbD 4 = false ∧
    ((interrupted 0x1C).pu .pu1).flagW = true := by decide +kernel

/-- Both counters have overflowed with their enables set, and one entry clears both (L41). -/
theorem test_witness_InterruptTaken_counters :
    (let s : State := { small [] 0x800 with s12 := 0xC0C0 }
     s.beginStep.accepted = some 0x19 ∧ s.beginStep.cpu.flagT = true ∧
     (s.beginStep.takeInterrupt 0x19).s12 = 0x4040) := by decide +kernel
/-- The nondirected Restart, at a PU that no directed one waits for. -/
theorem test_witness_InterruptTaken_restart :
    (let s : State := { small [] 0x800 with pend := ⟨false, false, true, false, none⟩, turn := .pu1 }
     s.beginStep.accepted = some 0x1D ∧ s.beginStep.cpu.pendRestart = false) := by decide +kernel

/-- What a step leaves, if it answers a next state. -/
def oneStep {α : Type} (s : State) (f : State → α) : Option α :=
  match step s with
  | .next t => some (f t)
  | .fault _ => none
  | .refused _ => none

/-- R390: a pushbutton Reset, met in PU 1's step, is the whole chip's. -/
theorem test_step_pushbutton : oneStep (interrupted 0x1F) (fun t => (t.pu0.pc, t.pu1.pc, t.pend.reset)) =
    some (0xF8, 0xF8, false) := by decide +kernel
/-- R89: the PU's next step makes the next load of its run, whatever stands at its pc. -/
theorem test_step_run :
    oneStep (holding (.move ⟨true, 3, 15, 0x7FD, 2⟩) (small [(15, 0x7FD)] 0 [(0x7FE, 2)]))
      (fun t => (t.pu0.reg 2, t.pu0.run, pcs { t with turn := .pu0 })) =
    some (2, some (.move ⟨true, 3, 15, 0x7FD, 1⟩), (0xF8, 0xF9)) := by decide +kernel
/-- R89: each fetch of a LdWE is a step, and its load another. -/
theorem test_step_extended_first : oneStep (placed 0x40CD 0xFFFF) (fun t => (t.pu0.pc, t.pu0.run)) =
    some (0xF8, some (.second 0x40CD)) := by decide +kernel
theorem test_step_extended_second :
    oneStep (holding (.second 0x40CD) (placed 0x40CD 0xFFFF)) (fun t => (t.pu0.pc, t.pu0.run)) =
    some (0xF8, some (.access (.ldWE 12 13 65536))) := by decide +kernel
theorem test_step_extended_access : stepped 32 0xFFFF40CD (fun t => (t.pu0.pc, t.pu0.npc, t.pu0.run)) =
    some (0xFA, 0xFB, none) := by decide +kernel
/-- R393, R394: a misplaced LdWE, and one after a first RtI, is refused at its first halfword. -/
theorem test_step_misplaced_extended :
    step ((placed 0x40CD 0x0FFF).modCpu (fun u => { u with afterBranch := true })) =
      .refused .extendedAfterBranch ∧
    step ((placed 0x40CD 0x0FFF).modCpu (fun u => { u with rti1 := true })) = .refused .rtiPairBroken :=
  ⟨by rfl, by rfl⟩
/-- R393: a skipped LdWE is refused. -/
theorem test_step_skipped_extended : step (placed 0x40CD 0x0FFF 0x08000000) =
    .refused .extendedAfterBranch := by rfl
/-- R32: past the last halfword the program counter is open. -/
theorem test_pc_beyond : pcAdd 0x3FFFFFFF 1 = Config.pcBeyond 0x40000000 := by rfl
/-- R101: a user's access to a line whose tag is the system's traps. -/
theorem test_tag_denies : after (.ldWR 3 2)
    { small [(2, 0x40)] 0x1800 with
      dcache := putSet State.reset.dcache 4
        (CacheSet.empty.put 0 ⟨true, false, false, false, 0x100, none, 0⟩ [1, 2, 3, 0]) } pcs =
    some (0xA8, 0xA9) := by decide +kernel

/-- Both counters set to count system-mode instructions of PU 0, S10 about to wrap. -/
def counting : State :=
  { small [] with s12 := 0x2020, s10 := 0xFFFFFFFF, s11 := 0xFFFFFFFF, event := .finished }

theorem counting_config : counting.config1 = 0x20 := by
  unfold State.config1
  cases Config.s12UpperIsS10 <;> decide +kernel
theorem counting_config2 : counting.config2 = 0x20 := by
  unfold State.config2
  cases Config.s12UpperIsS10 <;> decide +kernel
theorem test_witness_InstructionCount_second : counting.config2.getLsbD 2 = false ∧
    counting.config2.getLsbD 3 = false ∧ (counting.config2.extractLsb' 0 2).toNat = counting.turn.number ∧
    counting.config2.getLsbD 5 = true ∧ ∀ p, (counting.pu p).waitEnded = false := by
  rw [counting_config2]
  refine ⟨by decide, by decide, by decide +kernel, by decide, ?_⟩
  intro p
  cases p <;> decide +kernel
/-- A Wait of PU 0 ends in a step of PU 1. -/
theorem test_witness_InstructionCount_wait :
    (let s : State := { counting with
        event := .waiting, turn := .pu1, pu0 := { counting.pu0 with waitEnded := true } }
     s.event = .waiting ∧ (s.pu .pu0).waitEnded = true ∧ (s.pu .pu0).flagU = false ∧
       (s.pu .pu1).waitEnded = false) := by decide +kernel
/-- PU 0's Rsm ends the Wait of PU 1, which the counter follows. -/
theorem test_witness_InstructionCount_resumed :
    (let s := { small [] with pu1 := { State.reset.pu1 with waitMask := some 0 } }
     after (.rsm 2) s (fun t => (t.event, t.pu1.waitEnded, t.pu0.waitEnded, t.pu1.flagU))) =
    some (.finished, true, false, false) := by decide +kernel
theorem test_witness_InstructionCount : counting.event = .finished ∧
    counting.config1.getLsbD 2 = false ∧ counting.config1.getLsbD 3 = false ∧
    ((counting.config1.extractLsb' 0 2).toNat = counting.turn.number ∧
      counting.config1.getLsbD 5 = true) ∧ counting.config1.getLsbD 4 = false := by
  rw [counting_config]
  decide +kernel

/-- An instruction answers a next state. -/
def runsOn (i : Instr) (s : State) : Bool :=
  match exec i s with
  | .next _ => true
  | .fault _ => false
  | .refused _ => false

theorem next_of_runsOn {i : Instr} {s : State} (h : runsOn i s = true) : ∃ t, exec i s = .next t := by
  unfold runsOn at h
  cases hs : exec i s with
  | next t => exact ⟨t, rfl⟩
  | fault f => cases f
  | refused r => simp [hs] at h

/-- The step of a state answers a next state. -/
def stepsOn (s : State) : Bool :=
  match step s with
  | .next _ => true
  | .fault _ => false
  | .refused _ => false

theorem next_of_stepsOn {s : State} (h : stepsOn s = true) : ∃ t, step s = .next t := by
  unfold stepsOn at h
  cases hs : step s with
  | next t => exact ⟨t, rfl⟩
  | fault f => cases f
  | refused r => simp [hs] at h

theorem test_witness_MemoryStaysCanonical : memoryWf (placed 0x5212 0).mem ∧
    ∃ t, step (placed 0x5212 0) = .next t :=
  ⟨by decide +kernel, next_of_stepsOn (by decide +kernel)⟩
theorem test_witness_CachesAndMarksStayWellFormed : (small [(1, 0x40)]).CacheWf ∧
    (∀ p : PuId, ((small [(1, 0x40)]).pu p).Wf) ∧ ∃ t, step (small [(1, 0x40)]) = .next t := by
  refine ⟨small_cacheWf, ?_, next_of_stepsOn (by decide +kernel)⟩
  intro p
  unfold PU.Wf PU.ReturnWf PU.WaitWf PU.InFlightWf
  cases p <;> exact ⟨by decide +kernel, by decide +kernel, by decide +kernel,
    runWf_none (by decide +kernel), by decide +kernel⟩
theorem test_witness_UserModeIsContained : (placed 0x5212 0 0x1800).beginStep.cpu.flagU = true ∧
    (placed 0x5212 0 0x1800).beginStep.accepted = none ∧
    (placed 0x5212 0 0x1800).beginStep.cpu.flagCN = false ∧
    (placed 0x5212 0 0x1800).beginStep.privileged .eventConfig = true ∧
    ∃ t, step (placed 0x5212 0 0x1800) = .next t :=
  ⟨by decide +kernel, by decide +kernel, by decide +kernel, by decide +kernel,
    next_of_stepsOn (by decide +kernel)⟩
theorem test_witness_SavedContextFollowsTraps : (small [] 0x800).beginStep.cpu.flagT = true ∧
    (small [] 0x800).beginStep.cpu.flagU = false ∧ (small [] 0x800).input.cpu.flagT = true ∧
    (small []).input.cpu.flagT = false ∧ PuId.pu1 ≠ (small []).input.turn := by decide +kernel
theorem test_witness_OtherPusProtected : PuId.pu1 ≠ (small []).turn ∧
    (∃ t, exec (.add 1 2) (small []) = .next t) ∧ Form.add ≠ .send ∧
    Form.add ∉ [Form.rsm, Form.strt, Form.wait] :=
  ⟨by decide, ⟨_, rfl⟩, by decide, by decide⟩
theorem test_witness_FullWordArithmetic : (Instr.addI 1 256).wf = true ∧ (Instr.subI 1 16).wf = true ∧
    (SignedOverflow ((0x7FFFFFFF : Word).toInt + (1 : Word).toInt) ∧ (small [] 8).cpu.flagVE = true) ∧
    ¬SignedOverflow ((5 : Word).toInt + (7 : Word).toInt) := by
  unfold SignedOverflow
  decide +kernel
theorem test_witness_MultiplyResults : (small []).cpu.inflight = [] ∧
    ∃ t, exec (.mul 1 2) (small []) = .next t := ⟨by decide, ⟨_, rfl⟩⟩
/-- A result pending in R3 that a Mul, a Mov or a Div would spoil. -/
def pendingResult : State :=
  (small []).modCpu (fun u => { u with inflight := [⟨.gpr 3, 1, true⟩] })
theorem test_witness_MultiplyResults_spoiled : (⟨.gpr 3, 1, true⟩ : InFlight) ∈ pendingResult.cpu.inflight ∧
    (∃ t, exec (.mov 3 1) pendingResult = .next t) ∧ (∃ t, exec (.mul 1 2) pendingResult = .next t) ∧
    (∃ t, exec (.div 1 2) pendingResult = .next t) ∧ pendingResult.cpu.InFlightWf := by
  unfold PU.InFlightWf
  exact ⟨by decide +kernel, ⟨_, rfl⟩, ⟨_, rfl⟩, next_of_runsOn (by decide +kernel), by decide +kernel⟩
theorem test_witness_DivideResults_pending : (small [(2, 7)]).cpu.inflight = [] ∧
    (small [(2, 7)]).cpu.flagVE = false ∧ ∃ t, exec (.div 1 2) (small [(2, 7)]) = .next t :=
  ⟨by decide, by decide +kernel, next_of_runsOn (by decide +kernel)⟩
theorem test_witness_DivideResults :
    (0 : Word).toNat < ((small [(1, 100), (2, 7)]).rd 2).toNat ∧
    ((small [(2, 0)]).cpu.flagF = false ∧ (small [(2, 0)]).rd 2 = 0) ∧
    ((small [(2, 1)] 4).cpu.flagF = true ∧ ((small [(2, 0)] 4).rd 2).toNat ≤
      ((small [(2, 0)] 4).cpu.readDest 0 .remainder).toNat) ∧
    (small [] 8).cpu.flagVE = true := by decide +kernel
theorem test_witness_CompareConditions : (Instr.cmpI 1 256).wf = true ∧ (256 : Word).toNat = 256 := by
  decide
theorem test_witness_ComparePartialThenMask :
    (∃ t, exec (.cmpP 1 2) (small []) = .next t) ∧ ∃ u, exec (.ldCP 3) (small []) = .next u :=
  ⟨⟨_, rfl⟩, ⟨_, rfl⟩⟩
theorem test_witness_ConditionUses : (small []).cond .eq = false := by decide +kernel
theorem test_witness_TakenTransfers : (small []).cpu.flagB = false ∧ (small []).cond .ne = true := by
  decide +kernel
theorem test_witness_TakenBranchTrap : (small [] 0x400).cpu.flagB = true ∧
    (small [] 0x400).cond .ne = true := by decide +kernel
theorem test_witness_MovesAndProgramCounterReads : (Instr.ld 1 1).wf = true ∧
    (Instr.ld 1 256).wf = true := by decide
theorem test_witness_ShiftResults : (1 : Fin 32) ≠ 0 ∧ (31 : Fin 32) ≠ 0 := by decide
theorem test_witness_MaskDefinitions : (Instr.mskI 31 32).wf = true ∧ (Instr.mskR 0 1).wf = true := by
  decide
theorem test_witness_FieldInstructions : (smallField 8 15 []).cpu.mask.field? = some (8, 15) ∧
    (smallField 31 31 []).cpu.mask.field? = some (31, 31) := by decide +kernel
theorem test_witness_UndefinedResultsComplete : (smallField 9 8 []).cpu.mask.field? = none ∧
    runOverlaps 3 1 = true ∧ runOverlaps 3 3 = true ∧ (small []).IdentityMap ∧ memoryWf (small []).mem ∧
    (small [] 0x800).cpu.flagU = false ∧ (small [] 0x800).cpu.flagT = true ∧
    ({ small [] with s14 := 0x80000000 } : State).s14.getLsbD 31 = true :=
  ⟨by decide +kernel, by decide, by decide, identity_system (by decide +kernel) (by decide +kernel),
    by decide +kernel, by decide +kernel, by decide +kernel, by decide +kernel⟩

theorem test_witness_WordLoads :
    (let s := small [(2, 0x200)]
     memoryWf s.mem ∧ s.cpu.misplaced = false ∧
     (0x205#30).toNat = ((s.rd (Fin.castLE (by decide) (2 : Fin 4))).toNat + 5) % 2 ^ 30 ∧
     (0x200#30).toNat = (s.rd 2).toNat % 2 ^ 30 ∧
     (0x10200#30).toNat = ((s.rd 2).toNat + 65536) % 2 ^ 30 ∧
     (0x3FF00008#30).toNat = ((s.window s.cpu.flagCN).toNat + 8) % 2 ^ 30 ∧
     s.Allows (byteOfWord 0x205) .load page ∧ s.Allows (byteOfWord 0x200) .load page ∧
     s.Allows (byteOfWord 0x10200) .load page ∧ s.Allows (byteOfWord 0x3FF00008) .load page) := by
  unfold State.Allows
  decide +kernel
theorem test_witness_WordStores :
    (let s := small [(2, 0x200)]
     memoryWf s.mem ∧ s.cpu.misplaced = false ∧
     (0x240#30).toNat = ((s.rd (Fin.castLE (by decide) (2 : Fin 4))).toNat + 64) % 2 ^ 30 ∧
     (0x200#30).toNat = (s.rd 2).toNat % 2 ^ 30 ∧
     (0x201#30).toNat = ((s.rd 2).toNat + 1) % 2 ^ 30 ∧
     (0x3FF000FF#30).toNat = ((s.window s.cpu.flagCN).toNat + 255) % 2 ^ 30 ∧
     s.Allows (byteOfWord 0x240) .store page ∧ s.Allows (byteOfWord 0x200) .store page ∧
     s.Allows (byteOfWord 0x201) .store page ∧ s.Allows (byteOfWord 0x3FF000FF) .store page) := by
  unfold State.Allows
  decide +kernel
theorem test_witness_SemaphoreAccesses :
    (let s : State := { small [] with sem0 := 0x80 }
     (7 : Nat) ≤ 7 ∧ (0x3FF00007#30).toNat = ((s.window s.cpu.flagCN).toNat + 7) % 2 ^ 30 ∧
     (0x3FF00000#30).toNat = ((s.window s.cpu.flagCN).toNat + 0) % 2 ^ 30 ∧
     s.sem s.cpu.flagCN 7 = true ∧ s.sem s.cpu.flagCN 0 = false ∧ memoryWf s.mem ∧
     s.Allows (byteOfWord 0x3FF00007) .load page ∧ s.Allows (byteOfWord 0x3FF00000) .store page) := by
  unfold State.Allows
  decide +kernel
theorem test_witness_ByteAccesses :
    (let s := small [(1, 0xC0000010)]
     memoryWf s.mem ∧ s.Allows (byteOfPointer (s.rd 1)) .load page ∧
       s.Allows (byteOfPointer (s.rd 1)) .store page ∧ (5 : Reg) ≠ 1) := by
  unfold State.Allows
  decide +kernel
theorem small_noStale : (small [(15, 0x800)]).NoStale := by
  unfold State.NoStale
  decide +kernel
theorem test_witness_MultipleRuns :
    (let s := small [(15, 0x800)]
     (3 : Reg) ≠ 0 ∧ runOverlaps 3 15 = false ∧ runOverlaps 3 0 = false ∧ memoryWf s.mem ∧ s.NoStale ∧
     (∀ k < 3, s.Hits (byteOfWord (wordAddress (s.rd 15) k)) .load page) ∧
     (∀ k < 3, s.Hits (byteOfWord (wordAddress (s.rd 15 - 3) k)) .store page) ∧
     ∀ j < 3, ∀ k < 3, j ≠ k →
       (pageAddress page (byteOfWord (wordAddress (s.rd 15 - 3) j))).toNat ≠
         (pageAddress page (byteOfWord (wordAddress (s.rd 15 - 3) k))).toNat) := by
  unfold State.Hits
  exact ⟨by decide, by decide, by decide, by decide +kernel, small_noStale, by decide +kernel,
    by decide +kernel, by decide +kernel⟩
theorem test_witness_StoreLoadMultipleInverse :
    (let s := small [(15, 0x800)]
     (15 : Reg) ≠ 0 ∧ runOverlaps 14 15 = false ∧ memoryWf s.mem ∧ s.NoStale ∧ s.IdentityMap ∧
     ∀ r, s.cpu.busy (.gpr r) = false) := by
  exact ⟨by decide, by decide, by decide +kernel, small_noStale,
    identity_system (by decide +kernel) (by decide +kernel), by decide +kernel⟩

theorem test_witness_LoadSeesStore :
    (let s := small [(1, 0x40), (2, 9)]
     memoryWf s.mem ∧ s.Allows (byteOfWord (wordAddress (s.rd 1) 0)) .store page ∧
     s.Allows (byteOfWord (wordAddress (s.rd 1) 0)) .load page ∧ (∃ t, exec (.stWR 2 1) s = .next t)) ∧
    ∃ u, exec (.ldWR 3 1) dirtyLine = .next u := by
  unfold State.Allows
  exact ⟨⟨by decide +kernel, by decide +kernel, by decide +kernel, next_of_runsOn (by decide +kernel)⟩,
    next_of_runsOn (by decide +kernel)⟩
/-- The page faults of these statements hang on the walk of the page table (L5); a page nobody may load
from or store to shows that the hypotheses can be met, in both modes. -/
theorem test_witness_WordFaults :
    (let s := mapped closedPage (small [(2, 0x200)] 0x800)
     s.cpu.misplaced = false ∧ s.sem s.cpu.flagCN 7 = false ∧
     s.DataFaultIs (byteOfWord (wordAddress (s.rd 2) 5)) .load 0x15 ∧
     s.DataFaultIs (byteOfWord (s.directWA 7)) .store 0x15) := by
  unfold State.DataFaultIs
  refine ⟨by decide +kernel, by decide +kernel, .inr ⟨closedPage, ?_⟩, .inr ⟨closedPage, ?_⟩⟩ <;>
    decide +kernel
theorem test_witness_ByteAndRunFaults :
    (let s := mapped closedPage (holding (.move ⟨true, 3, 4, 0, 1⟩) (small [(2, 0x200)] 0x800))
     s.DataFaultIs (byteOfPointer (s.rd 2)) .load 0x15 ∧
     s.DataFaultIs (byteOfPointer (s.rd 2)) .store 0x15 ∧
     1 ≤ (3 : Reg).val ∧ runOverlaps 3 4 = false ∧ s.cpu.flagT = true ∧
     s.DataFaultIs (byteOfWord (wordAddress (s.rd 4) 2)) .load 0x15 ∧
     s.DataFaultIs (byteOfWord (addressOf (s.rd 4 - BitVec.ofNat 32 (3 + 1 - 1)))) .store 0x15) := by
  unfold State.DataFaultIs
  refine ⟨.inr ⟨closedPage, ?_⟩, .inr ⟨closedPage, ?_⟩, by decide, by decide, by decide +kernel,
    .inr ⟨closedPage, ?_⟩, .inr ⟨closedPage, ?_⟩⟩ <;> decide +kernel
theorem test_witness_RemoteAccesses :
    (let d : PageDesc := ⟨26, 0, true, false, false, true⟩
     let s := mapped d (small [(2, 0x200)])
     (∀ k : AccessKind, pageDenies d k s.cpu.flagU = false) ∧ d.message = true ∧
     s.pageOf (byteOfWord (s.directWA 7)) = some d ∧ s.sem s.cpu.flagCN 7 = false ∧
     s.pageOf (byteOfPointer (s.rd 2)) = some d ∧
     s.pageOf (byteOfWord (wordAddress (s.rd 2) 5)) = some d ∧ s.cpu.misplaced = false ∧
     1 ≤ (3 : Reg).val ∧ runOverlaps 3 4 = false ∧
     Ready s.beginStep ∧ s.beginStep.pageOf (byteOfHalf s.cpu.pc) = some d) := by
  unfold Ready Running
  refine ⟨?_, by decide +kernel⟩
  intro k
  cases k <;> decide +kernel
/-- A line that system mode brought in, and a user page that maps it: its tag denies the access. -/
theorem test_witness_WordFaults_tag :
    (let s : State := { small [(2, 0x40)] 0x1800 with
        dcache := putSet State.reset.dcache 4
          (CacheSet.empty.put 0 ⟨true, false, false, false, 0x100, none, 0⟩ [1, 2, 3, 0]) }
     s.DataFaultIs (byteOfWord (wordAddress (s.rd 2) 0)) .load 0x15) :=
  .inr ⟨page, by decide +kernel, rfl, .inr (.inr (.inr ⟨by decide +kernel, by decide +kernel,
    ⟨true, false, false, false, 0x100, none, 0⟩, by decide +kernel, by decide +kernel⟩))⟩
theorem test_witness_SpecialWrites : (∀ sp : SReg, sp ≠ .reserved5 → (small []).sregDenied sp = false) ∧
    (small []).cpu.flagT = false ∧ (small []).s14.getLsbD 31 = false := by
  refine ⟨?_, by decide +kernel, by decide +kernel⟩
  intro sp _
  cases sp <;> decide +kernel
theorem test_witness_SpecialReads : (small []).cpu.busy .remainder = false ∧
    (small []).cpu.busy .product = false ∧ (small []).sregDenied .globalStatus = false ∧
    (small []).cpu.flagT = false := by decide +kernel
theorem test_witness_PrivilegeTraps : (small [] 0x1000).cpu.flagU = true ∧
    (small []).cpu.flagU = false ∧ SReg.puNumber.field.val ∈ [3, 5, 13] ∧
    SReg.pageTableOrigin.field.val ∈ [4, 7, 8, 9, 14, 15] ∧
    SReg.globalStatus ∈ (small [] 0x1000).params.privExtra ∧
    (Instr.rdtx 1 2).form ∈ [Form.int, Form.res, Form.rtI, Form.itlb, Form.rdtx, Form.iicA] := by
  decide +kernel
theorem small_rd (x : Word) : (small [(2, x)]).rd 2 = x := by rfl
theorem small_flagCN (x : Word) : (small [(2, x)]).cpu.flagCN = false := by
  change (small []).cpu.flagCN = false
  decide +kernel
theorem movTS_runs (x : Word) (r : SReg) (h : r = .mask ∨ r = .window) :
    runsOn (.movTS 2 r) (small [(2, x)]) = true := by
  have hd : (notDestination r || (small [(2, x)]).sregDenied r) = false := by
    change (notDestination r || (small []).sregDenied r) = false
    rcases h with rfl | rfl <;> decide +kernel
  unfold runsOn exec execMovTS
  simp only [hd]
  rcases h with rfl | rfl <;> rfl
theorem test_witness_SavedViewsRestore :
    (smallField 8 15 []).cpu.mask.field? = some (8, 15) ∧
    (∃ t, exec (.movFS 1 .mask) (smallField 8 15 []) = .next t ∧
      (∃ v : State, v.rd 2 = t.cpu.reg 1 ∧ v.cpu.flagCN = false ∧ ∃ w, exec (.movTS 2 .mask) v = .next w)) ∧
    (∃ t, exec (.movFS 1 .window) (small []) = .next t ∧
      (∃ v : State, v.rd 2 = t.cpu.reg 1 ∧ v.cpu.flagCN = (small []).cpu.flagCN ∧
        ∃ w, exec (.movTS 2 .window) v = .next w)) := by
  obtain ⟨t, ht⟩ := next_of_runsOn (i := .movFS 1 .mask) (s := smallField 8 15 []) (by decide +kernel)
  obtain ⟨u, hu⟩ := next_of_runsOn (i := .movFS 1 .window) (s := small []) (by decide +kernel)
  exact ⟨by decide +kernel, ⟨t, ht, small [(2, t.cpu.reg 1)], small_rd _, small_flagCN _,
      next_of_runsOn (movTS_runs _ _ (.inl rfl))⟩,
    ⟨u, hu, small [(2, u.cpu.reg 1)], small_rd _, small_flagCN _, next_of_runsOn (movTS_runs _ _ (.inr rfl))⟩⟩
theorem test_witness_ModeBits : (4 : Fin 16).val ∈ [0, 1, 2, 3, 4] ∧
    ((13 : Fin 16).val ∈ [10, 11, 12, 13] ∧ (small []).cpu.flagU = false) ∧
    (14 : Fin 16).val ∈ [5, 6, 7, 8, 9, 14, 15] ∧
    (8 ≤ (10 : Fin 16).val ∧ (small [] 0x1000).cpu.flagU = true) := by decide +kernel
theorem test_witness_TrapAndReturnInstructions :
    ((small []).cpu.flagU = false ∧ (small []).cpu.flagT = false ∧ (small []).cpu.rti1 = false ∧
      (small []).cpu.misplaced = false) ∧
    (let s := (small []).modCpu (fun u => { u with rti1 := true })
     s.cpu.flagU = false ∧ s.cpu.flagT = false ∧ s.cpu.rti1 = true) := by decide +kernel
theorem test_witness_EntryThenReturnRestores : (small [] 0x1800).cpu.flagT = true ∧
    (∃ e, exec (.trap 3) (small [] 0x1800) = .next e) ∧ (interrupted 0x18).cpu.flagT = true ∧
    (interrupted 0x18).accepted = some 0x18 ∧ (0x18 : Fin 32) ≠ 0x1F :=
  ⟨by decide +kernel, ⟨_, rfl⟩, by decide +kernel, by decide +kernel, by decide⟩
theorem test_witness_UndefinedUsesAreRefused :
    (let s := (small []).modCpu (fun u => { u with afterBranch := true })
     s.cpu.misplaced = true ∧ s.cpu.flagU = false ∧ s.cpu.flagT = false ∧ s.cpu.rti1 = false) ∧
    ((small [] 0x800).cpu.flagU = false ∧ (small [] 0x800).cpu.flagT = true) ∧
    (1#4).getLsbD (small []).turn.number = true := by decide +kernel
/-- An instruction that is no RtI, or no instruction, after the first RtI of a pair. -/
theorem test_witness_UndefinedUsesAreRefused_pair :
    (let s0 := ({ placed 0x5212 0 with
                  pu0 := { (placed 0x5212 0).pu0 with rti1 := true } } : State).beginStep
     let pa := pageAddress page (byteOfHalf s0.cpu.pc)
     Ready s0 ∧ s0.cpu.rti1 = true ∧ s0.Coherent pa ∧ s0.Allows (byteOfHalf s0.cpu.pc) .fetch page ∧
       decode s0.params.opcodes [s0.halfIn pa] = .ok (.add 1 2, []) ∧ Instr.add 1 2 ≠ .rtI) := by
  unfold Ready Running State.Allows
  exact ⟨by decide +kernel, by decide +kernel,
    coherent_of_ok (by decide +kernel), by decide +kernel, by decide +kernel,
    by decide⟩
/-- LdWE after a first RtI, and in a shadow. -/
theorem test_witness_UndefinedUsesAreRefused_extended :
    (let s0 := ((placed 0x40CD 0).modCpu (fun u => { u with rti1 := true })).beginStep
     let pa := pageAddress page (byteOfHalf s0.cpu.pc)
     Ready s0 ∧ s0.cpu.rti1 = true ∧ s0.Coherent pa ∧ s0.Allows (byteOfHalf s0.cpu.pc) .fetch page ∧
       decode s0.params.opcodes [s0.halfIn pa] = .error .truncated) ∧
    (let s0 := ((placed 0x40CD 0).modCpu (fun u => { u with npc := 0x400 })).beginStep
     Ready s0 ∧ s0.cpu.rti1 = false ∧ s0.cpu.misplaced = true) := by
  unfold Ready Running State.Allows
  exact ⟨⟨by decide +kernel, by decide +kernel,
    coherent_of_ok (by decide +kernel), by decide +kernel, by decide +kernel⟩,
    by decide +kernel⟩
theorem test_witness_InterruptingInstructions : (small [] 0x800).cpu.flagU = false ∧
    (∀ p : PuId, (1#4).getLsbD p.number = true → ((small [] 0x800).pu p).flagT = true) ∧
    (∃ p : PuId, (6#4).getLsbD p.number = true ∧ ((small [] 0x800).pu p).flagT = false) := by
  refine ⟨by decide +kernel, ?_, ⟨.pu1, by decide +kernel⟩⟩
  intro p
  cases p <;> decide +kernel
theorem test_witness_WaitInstruction :
    (∃ p : PuId, (2#4).getLsbD p.number = true ∧ p ≠ ({ small [] with pu1 := State.reset.pu0 } : State).turn ∧
      (({ small [] with pu1 := State.reset.pu0 } : State).pu p).flagW = false) ∧
    (∀ p : PuId, ((small []).pu p).Wf) ∧ (6#4) ≠ 0 ∧
    (∀ p : PuId, (6#4).getLsbD p.number = true → p = (small []).turn ∨ ((small []).pu p).flagW = true) ∧
    ∃ t, exec (.wait 6) (small []) = .next t := by
  refine ⟨⟨.pu1, by decide +kernel⟩, ?_, by decide, ?_, ⟨_, rfl⟩⟩
  · intro p
    unfold PU.Wf PU.ReturnWf PU.WaitWf PU.InFlightWf
    cases p <;> exact ⟨by decide +kernel, by decide +kernel, by decide +kernel,
      runWf_none (by decide +kernel), by decide +kernel⟩
  · intro p
    cases p <;> decide +kernel
/-- A PU other than the issuer waits for it, and goes on when it too waits. -/
theorem test_witness_WaitInstruction_met :
    (let s : State := { small [] with pu1 := { State.reset.pu1 with waitMask := some 1 } }
     (s.pu .pu1).waitMask = some 1 ∧ (1#4) ≠ 0 ∧
     ∀ p : PuId, (1#4).getLsbD p.number = true → p = s.turn ∨ (s.pu p).flagW = true) := by
  refine ⟨rfl, by decide, ?_⟩
  intro p
  cases p <;> decide +kernel
theorem test_witness_RendezvousInstructions :
    (∃ p : PuId, (2#4).getLsbD p.number = true ∧ p ≠ ({ small [] with pu1 := State.reset.pu0 } : State).turn ∧
      (({ small [] with pu1 := State.reset.pu0 } : State).pu p).flagW = false) ∧
    (small []).cpu.flagW = false ∧ (6#4).getLsbD (small []).turn.number = false ∧
    (∀ p : PuId, (6#4).getLsbD p.number = true → (p = (small []).turn ∨ ((small []).pu p).flagW = true) ∧
      ((small []).cpu.flagU = true → ((small []).pu p).flagU = true)) := by
  refine ⟨⟨.pu1, by decide +kernel⟩, by decide +kernel, by decide +kernel, ?_⟩
  intro p
  cases p <;> decide +kernel
theorem test_witness_TranslationAndTagAccess : (small []).cpu.flagU = false ∧
    (3 : Fin 16).val = ((small [(1, 0x35)]).rd 1).toNat / 16 % 16 ∧
    (1 : Fin 4).val = ((small [(1, 0x35)]).rd 1).toNat % 4 := by decide +kernel
theorem test_witness_caches :
    (let s := small [(1, 0x40)]
     memoryWf s.mem ∧ s.CacheWf ∧ s.NoStale ∧ s.cpu.flagU = false ∧
     s.Allows (byteOfWord (wordAddress (s.rd 1) 0)) .load page ∧
     s.Allows (byteOfWord (wordAddress (s.rd 1) 0)) .store page ∧
     s.lineAt (pageAddress page (byteOfWord (wordAddress (s.rd 1) 0))) = none ∧
     (0x7C#30).toNat = (s.cpu.pc + BitVec.ofInt 30 0).toNat / 2 ∧
     s.Allows (byteOfWord 0x7C) .load page) := by
  unfold State.Allows State.NoStale
  exact ⟨by decide +kernel, small_cacheWf, by decide +kernel, by decide +kernel, by decide +kernel,
    by decide +kernel, by decide +kernel, by decide +kernel, by decide +kernel⟩
/-- The state an instruction answers. -/
def ranOn (i : Instr) (s : State) : State :=
  match exec i s with
  | .next t => t
  | .fault _ => s
  | .refused _ => s
/-- CDC, a store of one word and FDC. -/
theorem test_witness_CreateLine_written :
    (let s := small [(1, 0x40), (2, 9)]
     let va := byteOfWord (wordAddress (s.rd 1) 0)
     let t := ranOn (.cdc 1) s
     let u := ranOn (.stWR 2 1) t
     s.lineAt (pageAddress page va) = none ∧ s.Allows va .store page ∧ t.Allows va .store page ∧
     u.Allows va .load page ∧ exec (.cdc 1) s = .next t ∧ exec (.stWR 2 1) t = .next u ∧
     exec (.fdc 1) u = .next (ranOn (.fdc 1) u)) := by
  unfold State.Allows
  exact ⟨by decide +kernel, by decide +kernel, by decide +kernel, by decide +kernel, rfl, rfl, rfl⟩
theorem test_witness_caches_modified :
    (∃ e, dirtyLine.lineAt 0x100 = some e ∧ e.dirty = true) ∧
    dirtyLine.Allows (byteOfWord (wordAddress (dirtyLine.rd 1) 0)) .store page := by
  unfold State.Allows
  exact ⟨⟨_, rfl, by decide +kernel⟩, by decide +kernel⟩
/-- R100: after a store the old value and the new one may be fetched; FDC and then IIC leave the new one, IIC
and then FDC both. -/
theorem test_fetch_choices : (dirtyLine.fetchChoices 0x102, dirtyLine.storedHalf 0x102) =
    ([5, 5, 9], some ⟨0x102, [5, 9], false⟩) := by decide +kernel
theorem test_fdc_iic : after (.iic 1) (ranOn (.fdc 1) dirtyLine) (fun t => (t.fetchChoices 0x102, t.fetched 0x102)) =
    some ([9], 9) := by decide +kernel
theorem test_iic_fdc : after (.fdc 1) (ranOn (.iic 1) dirtyLine) (fun t => t.fetchChoices 0x102) =
    some [9, 5, 9] := by decide +kernel
/-- R293: a word of a line that CDC made, which nothing stored, is fetched from Main Memory. -/
theorem test_iic_created : after (.iic 1) (createdLine 0xFFFF) (fun t => t.fetched 0x106) = some 7 := by
  decide +kernel
theorem test_witness_FetchSeesUpdatedLine_main :
    (createdLine 0xFFFF).StoredWf ∧ (createdLine 0xFFFF).cpu.flagU = false ∧
    (createdLine 0xFFFF).Allows (byteOfWord (wordAddress ((createdLine 0xFFFF).rd 1) 0)) .load page ∧
    (createdLine 0xFFFF).lineBase 0x106 =
      (createdLine 0xFFFF).lineBase (pageAddress page (byteOfWord (wordAddress ((createdLine 0xFFFF).rd 1) 0))) ∧
    (createdLine 0xFFFF).storedHalf 0x106 = none ∧
    (∃ t, exec (.iic 1) (createdLine 0xFFFF) = .next t) ∧ ∃ t, exec .iicA (createdLine 0xFFFF) = .next t := by
  unfold State.Allows State.StoredWf
  exact ⟨by decide +kernel, by decide +kernel, by decide +kernel, by decide +kernel, by decide +kernel,
    ⟨_, rfl⟩, ⟨_, rfl⟩⟩
theorem test_witness_FetchSeesUpdatedLine_stored :
    dirtyLine.storedHalf 0x102 = some ⟨0x102, [5, 9], false⟩ ∧
    exec (.iic 1) dirtyLine = .next (ranOn (.iic 1) dirtyLine) ∧
    exec (.fdc 1) (ranOn (.iic 1) dirtyLine) = .next (ranOn (.fdc 1) (ranOn (.iic 1) dirtyLine)) :=
  ⟨by decide +kernel, rfl, rfl⟩
theorem test_witness_FetchSeesUpdatedLine :
    (∃ t, exec (.udc 1) (small [(1, 0x40)]) = .next t) ∧ (∃ u, exec (.iic 1) (small [(1, 0x40)]) = .next u) ∧
    (small [(1, 0x40)]).lineBase 0x102 =
      (small [(1, 0x40)]).lineBase (pageAddress page (byteOfWord 0x40)) ∧ (0x102 : PAddr).toNat % 2 = 0 :=
  ⟨⟨_, rfl⟩, ⟨_, rfl⟩, by decide +kernel, by decide⟩
theorem test_witness_CacheInstructionFaults :
    (let s := mapped closedPage (small [(2, 0x200)])
     s.pageOf (byteOfWord (wordAddress (s.rd 2) 0)) = some closedPage ∧
     pageDenies closedPage .load s.cpu.flagU = true ∧
     pageDenies closedPage .store s.cpu.flagU = true ∧
     (0x7C#30).toNat = (s.cpu.pc + BitVec.ofInt 30 1).toNat / 2 ∧
     s.pageOf (byteOfWord 0x7C) = some closedPage) := by decide +kernel

/-- The conditions of `CacheLine.Wf` as a check. -/
def lineOk (s : State) (i : Fin 16) (e : CacheLine) : Bool :=
  (!e.valid || (s.lineBase e.base == e.base && setIndex e.base == i)) &&
    (match e.backing with
      | some b => b.length == s.lineBytes
      | none => !e.dirty && e.unstored == 0)

theorem lineWf_of_ok {s : State} {i : Fin 16} {e : CacheLine} (h : lineOk s i e = true) : e.Wf s i := by
  unfold lineOk at h
  simp only [Bool.and_eq_true, Bool.or_eq_true, Bool.not_eq_true', beq_iff_eq] at h
  refine ⟨fun hv => ?_, fun b hb => ?_, fun hd => ?_⟩
  · rcases h.1 with h1 | h1
    · rw [hv] at h1; cases h1
    · exact h1
  · have h2 := h.2
    rw [hb] at h2
    simpa using h2
  · have h2 := h.2
    cases hb : e.backing with
    | some b => rfl
    | none => rw [hb] at h2; simp at h2; simp [h2] at hd

/-- The conditions of `State.CacheWf` as checks. -/
theorem cacheWf_of_ok {s : State} (ho : ∀ i : Fin 16, (s.cacheSet i).order.Perm [0, 1, 2, 3])
    (hl : ∀ (i : Fin 16) (w : Fin 4), lineOk s i ((s.cacheSet i).way w) = true)
    (hd : ∀ (i : Fin 16) (v w : Fin 4), ((s.cacheSet i).way v).valid = true →
      ((s.cacheSet i).way w).valid = true → ((s.cacheSet i).way v).base = ((s.cacheSet i).way w).base → v = w) :
    s.CacheWf := fun i => ⟨ho i, fun w => lineWf_of_ok (hl i w), hd i⟩

/-- A modified line in a well-formed state, for the clauses about one: all of it stored, and, made by CDC, one
word of it. -/
theorem test_witness_DataCacheLineInstructions :
    (∃ e, dirtyLine.lineAt (pageAddress page (byteOfWord (wordAddress (dirtyLine.rd 1) 0))) = some e ∧
      e.dirty = true ∧ e.unstored = 0) ∧ memoryWf dirtyLine.mem ∧ dirtyLine.CacheWf ∧
    dirtyLine.Allows (byteOfWord (wordAddress (dirtyLine.rd 1) 0)) .load page ∧
    dirtyLine.Allows (byteOfWord (wordAddress (dirtyLine.rd 1) 0)) .store page := by
  unfold State.Allows
  exact ⟨⟨_, rfl, by decide +kernel⟩, by decide +kernel,
    cacheWf_of_ok (by decide +kernel) (by decide +kernel) (by decide +kernel), by decide +kernel,
    by decide +kernel⟩
theorem test_witness_DataCacheLineInstructions_created :
    (let s := createdLine 0xFFFE
     (∃ e, s.lineAt (pageAddress page (byteOfWord (wordAddress (s.rd 1) 0))) = some e ∧ e.dirty = true ∧
       e.unstored = 0xFFFE) ∧ memoryWf s.mem ∧ s.CacheWf ∧
     s.Allows (byteOfWord (wordAddress (s.rd 1) 0)) .load page ∧
     s.Allows (byteOfWord (wordAddress (s.rd 1) 0)) .store page) := by
  unfold State.Allows
  exact ⟨⟨_, rfl, by decide +kernel⟩, by decide +kernel,
    cacheWf_of_ok (by decide +kernel) (by decide +kernel) (by decide +kernel), by decide +kernel,
    by decide +kernel⟩

/-- A line that CDC made stands in its set's least recently used entry. -/
def heldLine : State :=
  { createdLine 0xFFFE with
    dcache := putSet State.reset.dcache 4 (((createdLine 0xFFFE).cacheSet 4).put 0
      (((createdLine 0xFFFE).cacheSet 4).way 0) [0, 1, 2, 3]) }

/-- CDC of a line that the least recently used entry already holds. -/
theorem test_witness_CreateLine_held : memoryWf heldLine.mem ∧ heldLine.CacheWf ∧
    (heldLine.cacheSet 4).findWay (heldLine.lineBase 0x100) = some (heldLine.cacheSet 4).lru ∧
    heldLine.Allows (byteOfWord (wordAddress (heldLine.rd 1) 0)) .store page := by
  unfold State.Allows
  exact ⟨by decide +kernel, cacheWf_of_ok (by decide +kernel) (by decide +kernel) (by decide +kernel),
    by decide +kernel, by decide +kernel⟩

end Sys2Proof.Tests
end

section
/-! SUPPORT. Frames of the elementary updates of the state, to be put together by `Unchanged.trans`, and
where the program counters stand after the ends of an instruction. -/

namespace Sys2Proof.Machine

/-! ### Frames in general -/

theorem Unchanged.refl (s : State) : Unchanged s s [] := by
  intro p _
  cases p <;> simp [Part.Same]

theorem Unchanged.mono {s t : State} {ps qs : List Part} (h : Unchanged s t ps) (hsub : ps ⊆ qs) :
    Unchanged s t qs := fun p hp => h p fun hm => hp (hsub hm)

/-- What the step did is no piece of the state. -/
theorem unchanged_withEvent (s : State) (e : StepEvent) : Unchanged s { s with event := e } [] := by
  intro p _
  cases p <;> simp [Part.Same]

theorem State.setCpu_self (s : State) : s.setCpu s.cpu = s := by
  unfold setCpu cpu
  cases s.turn <;> rfl

/-- A state that differs in its PUs only has the frame of its executing PU, and the other PUs' own. -/
theorem Unchanged.of_pus {s t : State} {ps : List Part}
    (hglobal : t = { s with pu0 := t.pu0, pu1 := t.pu1, pu2 := t.pu2, pu3 := t.pu3, event := t.event })
    (hcpu : Unchanged s (s.setCpu t.cpu) ps)
    (hother : Part.otherPus ∉ ps → ∀ q, q ≠ s.turn → t.pu q = s.pu q) : Unchanged s t ps := by
  intro p hp
  have hsame := hcpu p hp
  cases p with
  | otherPus => exact hother hp
  | memory | dataCache | instCache | stored | tlb | test | window | semaphores | eventCounters | eventConfig
  | interruptArgument | pageTable | pending | model => rw [hglobal]; simp [Part.Same]
  | reg r | status b | counters | mask | remainder | product | statusSave | trapArg | queue | returnMark
  | waitSem | run | waitMask | pendInter | pendRestart | intervals | waitEnded =>
    simpa only [Part.Same, State.setCpu_cpu] using hsame

/-! ### Frames of the elementary updates -/

theorem unchanged_wr (s : State) (r : Reg) (v : Word) : Unchanged s (s.wr r v) [.reg r] :=
  unchanged_setCpu (u := s.cpu.writeDest (.gpr r) v) (e := (s.wr r v).event)
    (fun q hq => PU.writeDest_get_other _ _ (by simpa using hq)) (fun _ _ => rfl) (fun _ => ⟨rfl, rfl⟩)
    (fun _ => rfl) (fun _ => rfl) (fun _ => rfl) (fun _ => rfl) (fun _ => rfl) (fun _ => ⟨rfl, rfl⟩)
    (fun _ => rfl) (fun _ => rfl) (fun _ => rfl) (fun _ => rfl) (fun _ => rfl) (fun _ => rfl)
    (fun _ d => PU.busy_writeDest ..) (fun _ => rfl)

theorem unchanged_withBit (s : State) (i : Fin 32) (b : Bool) :
    Unchanged s (s.modCpu (fun u => u.withBit i.val b)) [.status i] :=
  unchanged_setCpu (u := s.cpu.withBit i.val b) (e := (s.modCpu (fun u => u.withBit i.val b)).event)
    (fun _ _ => rfl)
    (fun j hj => by
      rw [PU.withBit_sscr, setBit_getLsbD _ _ _ _ i.isLt, if_neg]
      exact fun h => hj (List.mem_singleton.mpr (congrArg Part.status (Fin.ext h))))
    (fun _ => ⟨rfl, rfl⟩) (fun _ => rfl) (fun _ => rfl) (fun _ => rfl) (fun _ => rfl) (fun _ => rfl)
    (fun _ => ⟨rfl, rfl⟩) (fun _ => rfl) (fun _ => rfl) (fun _ => rfl) (fun _ => rfl) (fun _ => rfl)
    (fun _ => rfl) (fun _ _ => rfl) (fun _ => rfl)

/-- A step to the next halfword changes `stepParts`, whatever it is recorded as. -/
theorem unchanged_sequential (s : State) (e : StepEvent) :
    Unchanged s { s.modCpu PU.sequential with event := e } stepParts :=
  unchanged_setCpu (u := s.cpu.sequential) (fun _ _ => rfl) (fun _ _ => rfl)
    (fun h => absurd (by simp [stepParts]) h) (fun _ => rfl) (fun _ => rfl) (fun _ => rfl) (fun _ => rfl)
    (fun _ => rfl) (fun _ => ⟨rfl, rfl⟩) (fun _ => rfl) (fun h => absurd (by simp [stepParts]) h)
    (fun h => absurd (by simp [stepParts]) h) (fun _ => rfl) (fun _ => rfl) (fun _ => rfl) (fun _ _ => rfl)
    (fun _ => rfl)

theorem unchanged_advance (s : State) : Unchanged s s.advance stepParts := unchanged_sequential s .finished

/-- The mark of a slot after a branch or skip is no piece of the state. -/
theorem unchanged_afterBranch (s : State) (b : Bool) :
    Unchanged s (s.modCpu (fun u => { u with afterBranch := b })) [] :=
  unchanged_setCpu (u := { s.cpu with afterBranch := b })
    (e := (s.modCpu (fun u => { u with afterBranch := b })).event)
    (fun _ _ => rfl) (fun _ _ => rfl) (fun _ => ⟨rfl, rfl⟩) (fun _ => rfl) (fun _ => rfl) (fun _ => rfl)
    (fun _ => rfl) (fun _ => rfl) (fun _ => ⟨rfl, rfl⟩) (fun _ => rfl) (fun _ => rfl) (fun _ => rfl)
    (fun _ => rfl) (fun _ => rfl) (fun _ => rfl) (fun _ _ => rfl) (fun _ => rfl)

theorem unchanged_advanceBranch (s : State) : Unchanged s s.advanceBranch stepParts :=
  (unchanged_advance s).trans (State.advance_turn s) (unchanged_afterBranch s.advance true)

theorem unchanged_withRest (s : State) (r : Option Rest) : Unchanged s (s.withRest r) [.run] :=
  unchanged_setCpu (u := { s.cpu with run := r }) (e := (s.withRest r).event)
    (fun _ _ => rfl) (fun _ _ => rfl) (fun _ => ⟨rfl, rfl⟩) (fun _ => rfl) (fun _ => rfl) (fun _ => rfl)
    (fun _ => rfl) (fun _ => rfl) (fun _ => ⟨rfl, rfl⟩) (fun _ => rfl) (fun _ => rfl)
    (fun h => absurd (List.mem_singleton.mpr rfl) h) (fun _ => rfl) (fun _ => rfl) (fun _ => rfl)
    (fun _ _ => rfl) (fun _ => rfl)

/-! ### The ends of an instruction (10_state.md R31) -/

@[simp] theorem PU.sequential_reg (u : PU) (r : Reg) : u.sequential.reg r = u.reg r := rfl

theorem State.advance_at (s : State) : s.advance.At s.cpu.npc (pcAdd s.cpu.npc 1) false .finished := by
  simp [At]

@[simp] theorem State.advanceBranch_cpu (s : State) :
    s.advanceBranch.cpu = { s.cpu.sequential with afterBranch := true } := by
  simp [advanceBranch]

theorem State.advanceBranch_at (s : State) :
    s.advanceBranch.At s.cpu.npc (pcAdd s.cpu.npc 1) true .finished := by
  refine ⟨?_, ?_, ?_, ?_, ?_, State.modCpu_event ..⟩ <;> simp

end Sys2Proof.Machine
end

section
/-! PROOFS. The statements about reset, the saved context and the condition table. -/

namespace Sys2Proof.Machine

/-! ### Reset (10_state.md R75, 70_reset_and_hazards.md R390) -/

theorem State.resetWith_pu (m : BitVec 4) (p : PuId) :
    (State.resetWith m).pu p = PU.reset (!m.getLsbD p.number) := by
  cases p <;> rfl

/-- A PU after reset is at the Reset vector in system mode with traps off, and halted if it is to be. -/
theorem PU.reset_entry (halted : Bool) :
    (PU.reset halted).pc = BitVec.ofNat 30 (8 * 0x1F) ∧ (PU.reset halted).npc = BitVec.ofNat 30 (8 * 0x1F + 1) ∧
    (PU.reset halted).sscr.extractLsb' 0 16 = 0 ∧ (PU.reset halted).flagW = halted ∧
    (PU.reset halted).flagS = false ∧ (PU.reset halted).rti1 = false := by
  cases halted <;> decide

theorem PU.reset_wf (halted : Bool) : (PU.reset halted).Wf := by
  refine ⟨?_, ?_, ⟨?_, ?_⟩, ⟨?_, ?_⟩, rfl⟩ <;> simp [PU.reset, ReturnWf, WaitWf]

/-- With no cause held anywhere, no interrupt is accepted (60_exceptions.md R348). -/
theorem State.accepted_of_no_cause {s : State} (hpend : s.pend = ⟨false, false, false, false, none⟩)
    (hinter : s.cpu.pendInter = false) (hrestart : s.cpu.pendRestart = false)
    (hcounters : counterPending s.s12 = false) (hexternal : s.s14.getLsbD 30 = false) : s.accepted = none := by
  have hcounter : s.selected s.turn numEventCounter = false := by
    simp [selected, canAccept, enabledFor, hcounters, numEventCounter, numExternal]
  have hi : (s.pu s.turn).pendInter = false := hinter
  have hr : (s.pu s.turn).pendRestart = false := hrestart
  refine List.find?_eq_none.mpr fun n hn => ?_
  simp only [interruptOrder, List.mem_cons, List.not_mem_nil, or_false] at hn
  obtain rfl | rfl | rfl | rfl | rfl | rfl | rfl | rfl := hn <;>
    simp [deliverable, numReset, numMachineCheck, numRestart, numPowerFail, numInterPu, numInterChip,
      numEventCounter, numExternal, hpend, hi, hr, hexternal, -BitVec.getLsbD_eq_getElem]
  exact hcounter

/-- Settles O1: each PU's reset values, and no cause held for `accepted_of_no_cause`. -/
theorem resetState : Obligations.ResetState := by
  refine ⟨rfl, fun m p => ?_⟩
  rw [State.resetWith_pu]
  obtain ⟨hpc, hnpc, hmode, hw, hs, hrti⟩ := PU.reset_entry (!m.getLsbD p.number)
  refine ⟨fun hin => ⟨hpc, hnpc, hmode, ?_, hs, hrti⟩, fun hout => ⟨hmode, ?_⟩, rfl, rfl, rfl, ?_⟩
  · rw [hw, hin]; rfl
  · rw [hw, hout]; rfl
  · exact State.accepted_of_no_cause rfl rfl rfl (by simp [State.resetWith, counterPending])
      (by simp [State.resetWith])

theorem CacheSet.empty_wf (s : State) (i : Fin 16) : CacheSet.empty.Wf s i := by
  have hway : ∀ w, CacheSet.empty.way w = CacheLine.empty := fun w => Vector.getElem_replicate ..
  refine ⟨.refl _, fun w => ?_, fun v w hv => ?_⟩
  · rw [hway]
    simp [CacheLine.Wf, CacheLine.empty]
  · rw [hway] at hv
    cases hv

theorem State.resetWith_inv (m : BitVec 4) : (State.resetWith m).Inv := by
  refine ⟨?_, fun i => ?_, List.nodup_nil, fun p => ?_⟩
  · exact ⟨List.Pairwise.nil, by simp [resetWith]⟩
  · rw [show (State.resetWith m).cacheSet i = CacheSet.empty from Vector.getElem_replicate ..]
    exact CacheSet.empty_wf _ i
  · rw [resetWith_pu]
    exact PU.reset_wf _

/-- Settles O2. -/
theorem resetInvariant : Obligations.ResetInvariant := ⟨State.resetWith_inv 1, State.resetWith_inv⟩

/-! ### The saved context (10_state.md R57, R59) -/

theorem PU.track_of_enabled {u : PU} (h : u.flagT = true) :
    u.track = { u with statusSave := u.sscr, qHead := u.pc, qTail := u.npc } := if_pos h

theorem PU.track_of_disabled {u : PU} (h : u.flagT = false) : u.track = u := if_neg (by simp [h])

@[simp] theorem PU.track_flagT (u : PU) : u.track.flagT = u.flagT := by
  unfold track
  split <;> rfl

/-- The start of a step may end a freeze of the stepping PU and keeps everything else of every PU. -/
theorem State.thaw_pus (s : State) : s.thaw.turn = s.turn ∧ (∃ w, s.thaw.cpu = { s.cpu with waitSem := w }) ∧
    ∀ p, p ≠ s.turn → s.thaw.pu p = s.pu p := by
  unfold thaw
  split
  · exact ⟨rfl, ⟨s.cpu.waitSem, rfl⟩, fun _ _ => rfl⟩
  · exact ⟨modCpu_turn .., ⟨none, modCpu_cpu ..⟩, fun _ hp => modCpu_pu_other s _ hp⟩

/-- The PUs at the start of a step: the stepping one tracked, its freeze possibly ended. -/
theorem State.beginStep_pus (s : State) :
    (∃ w, s.beginStep.cpu = ({ s.input.cpu with waitSem := w } : PU).track) ∧
      ∀ p, p ≠ s.input.turn → s.beginStep.pu p = s.input.pu p := by
  obtain ⟨hturn, ⟨w, hw⟩, hother⟩ := s.input.thaw_pus
  refine ⟨⟨w, ?_⟩, fun p hp => ?_⟩
  · rw [← hw]
    exact (State.cpu_with_event ..).trans (State.modCpu_cpu ..)
  · exact ((State.pu_with_event ..).trans (State.modCpu_pu_other _ _ (by rwa [hturn]))).trans (hother p hp)

/-- With traps enabled the saved context is the stepping PU's own. -/
theorem State.beginStep_saved {s : State} (h : s.beginStep.cpu.flagT = true) :
    s.beginStep.cpu.statusSave = s.beginStep.cpu.sscr ∧ s.beginStep.cpu.qHead = s.beginStep.cpu.pc ∧
      s.beginStep.cpu.qTail = s.beginStep.cpu.npc := by
  obtain ⟨⟨w, hw⟩, -⟩ := s.beginStep_pus
  rw [hw, PU.track_flagT] at h
  rw [hw, PU.track_of_enabled h]
  exact ⟨rfl, rfl, rfl⟩

/-- ClrM of an allowed bit. -/
theorem exec_clrM_of_allowed {s : State} {bit : Fin 16} (h : s.cpu.modeBitDenied bit = false) :
    exec (.clrM bit) s = .next (s.modCpu (fun u => u.withBit bit.val false)).advance :=
  if_neg (by simp [h])

/-- Settles O60: `beginStep` tracks, and ClrM writes SSCR and the program counters only. -/
theorem savedContextFollowsTraps : Obligations.SavedContextFollowsTraps := by
  refine ⟨fun s => ?_, fun s hT hU => ?_⟩
  · obtain ⟨⟨w, hw⟩, hother⟩ := s.beginStep_pus
    dsimp only
    rw [hw]
    refine ⟨fun hT => ?_, fun hT => ?_, ?_, hother⟩
    · rw [PU.track_of_enabled (u := { s.input.cpu with waitSem := w }) hT]
      exact ⟨rfl, rfl, rfl⟩
    · rw [PU.track_of_disabled (u := { s.input.cpu with waitSem := w }) hT]
      exact ⟨rfl, rfl, rfl⟩
    · unfold PU.track
      split <;> rfl
  · have hallowed : s.beginStep.cpu.modeBitDenied 11 = false := by
      simp [PU.modeBitDenied, modeBitReserved, hU]
    obtain ⟨hsave, hhead, htail⟩ := State.beginStep_saved hT
    refine ⟨_, exec_clrM_of_allowed hallowed, ?_, ?_, ?_, ?_⟩
    · simp [PU.flagT, -BitVec.getLsbD_eq_getElem]
    · simpa using hsave
    · simpa using hhead
    · simpa using htail

/-! ### The condition table (10_state.md R48) -/

/-- A write of a register and the step: the value, and nothing else. -/
theorem writes_of_wr_advance {i : Instr} {s : State} {r : Reg} {v : Word}
    (h : exec i s = .next (s.wr r v).advance) : Writes i s r v [] (fun _ => True) := by
  refine ⟨_, h, ?_, trivial, ?_, ?_⟩
  · simp
  · simpa [Advances] using (s.wr r v).advance_at
  · exact ((unchanged_wr s r v).trans (State.wr_turn ..) (unchanged_advance _)).mono (by simp)

theorem exec_bcc_of_untaken {s : State} {cc : Cc} (d : Int) (h : s.cond cc = false) :
    exec (.bcc cc d) s = .next s.advanceBranch :=
  if_neg (by simp [h])

theorem exec_skcc (cc : Cc) (s : State) :
    exec (.skcc cc) s =
      .next (if s.cond cc then s.modCpu (fun u => u.withBit bitS true) else s).advanceBranch := by
  show execSkcc cc s = _
  unfold execSkcc
  split <;> rfl

/-- Settles O23: the table by its cases, and the frames of a register write and of `advanceBranch`. -/
theorem conditionUses : Obligations.ConditionUses := by
  refine ⟨fun s => ?_, fun rb cc s => writes_of_wr_advance rfl, fun cc d s hc => ?_, fun cc s => ?_⟩
  · refine ⟨rfl, rfl, rfl, rfl, rfl, ?_, rfl, rfl, rfl, rfl, rfl, rfl⟩
    exact (Bool.not_or ..).symm
  · exact ⟨_, exec_bcc_of_untaken d hc, s.advanceBranch_at, unchanged_advanceBranch s⟩
  · refine ⟨_, exec_skcc cc s, ?_⟩
    cases hc : s.cond cc with
    | true =>
      refine ⟨?_, ?_, ?_⟩
      · simpa [AdvancesMarked] using (s.modCpu (fun u => u.withBit bitS true)).advanceBranch_at
      · simp [PU.flagS, bitS, -BitVec.getLsbD_eq_getElem]
      · exact ((unchanged_withBit s 27 true).trans (State.modCpu_turn ..) (unchanged_advanceBranch _)).mono
          (by simp)
    | false =>
      refine ⟨s.advanceBranch_at, ?_, (unchanged_advanceBranch s).mono (by simp)⟩
      simp [PU.flagS]

end Sys2Proof.Machine
end

section
/-! PROOFS. What takes a step's place and what a step runs (10_state.md R34): an equation for each way through
`step`, and the two statements made of them. -/

namespace Sys2Proof.Machine

/-! ### The ways through a step (10_state.md R34) -/

theorem step_of_preempt {s : State} {o : Out} (h : s.beginStep.preempt = some o) :
    step s = ended o s.beginStep.cpu.flagU := by
  simp [step, h]

theorem step_of_fetchDecode_error {s : State} {o : Out} (hp : s.beginStep.preempt = none)
    (h : s.beginStep.fetchDecode = .error o) : step s = ended o s.beginStep.cpu.flagU := by
  simp [step, hp, h]

theorem step_of_fetchDecode_ok {s t : State} {i : Instr} (hp : s.beginStep.preempt = none)
    (h : s.beginStep.fetchDecode = .ok (i, t)) (hpair : t.pairBroken i = false) :
    step s = ended (exec i t) s.beginStep.cpu.flagU := by
  simp [step, hp, h, hpair]

theorem State.pairBroken_eq_false {s : State} {i : Instr} (h : s.cpu.rti1 = true → i = .rtI) :
    s.pairBroken i = false := by
  cases hr : s.cpu.rti1 with
  | false => simp [pairBroken, hr]
  | true => rw [h hr]; simp [pairBroken, Instr.form]

theorem State.moving_eq_false {s : State} (h : ∀ x, s.cpu.run ≠ some (.move x)) : s.moving = false := by
  unfold moving
  split
  · exact absurd ‹_› (h _)
  all_goals rfl

/-! ### What takes the place of an instruction -/

/-- The step of a halted PU: every Wait whose condition is met ends. -/
def State.haltedSlot (s : State) : State := { s.releaseWaits with event := .waiting }

section
variable {s : State} (hacc : s.accepted = none)
include hacc

theorem State.preempt_of_move {x : Transfer} (hrun : s.cpu.run = some (.move x)) :
    s.preempt = some (.next (s.transferOne x)) := by
  simp [preempt, hacc, moving, continueRun, hrun]

variable (hmove : s.moving = false)
include hmove

theorem State.preempt_of_halted (hw : s.cpu.flagW = true) :
    s.preempt = some (.next s.haltedSlot) := by
  simp [preempt, haltedSlot, hacc, hmove, hw]

variable (hw : s.cpu.flagW = false)
include hw

theorem State.preempt_of_skip (hs : s.cpu.flagS = true) :
    s.preempt = some (if s.atExtended then .refused .extendedAfterBranch else .next s.skipSlot) := by
  simp [preempt, hacc, hmove, hw, hs]

theorem State.preempt_of_frozen (hs : s.cpu.flagS = false) (hf : s.frozen s.turn = true) :
    s.preempt = some (.next s.stay) := by
  simp [preempt, hacc, hmove, hw, hs, hf]

theorem State.preempt_eq_none (hs : s.cpu.flagS = false) (hf : s.frozen s.turn = false) :
    s.preempt = none := by
  simp [preempt, hacc, hmove, hw, hs, hf]

end

/-! ### The fetch of a halfword (20_memory.md R87, R100) -/

/-- An allowed fetch of a halfword that reads as loads see it. -/
theorem State.fetchHalf_of_coherent {s : State} {h : HAddr} {d : PageDesc}
    (hallow : s.Allows (byteOfHalf h) .fetch d) (hcoh : s.Coherent (pageAddress d (byteOfHalf h))) :
    s.fetchHalf h = .ok (s.halfIn (pageAddress d (byteOfHalf h)),
      (s.fillTlb (byteOfHalf h)).fillFetch (s.lineBase (pageAddress d (byteOfHalf h)))) := by
  unfold fetchHalf
  dsimp only
  rw [translate_of_allows hallow]
  dsimp only
  rw [fetched_of_coherent hcoh]

/-- A fetch leaves every PU as it is. -/
theorem State.cpu_of_fetchHalf {s t : State} {h : HAddr} {w : Half} (hf : s.fetchHalf h = .ok (w, t)) :
    t.cpu = s.cpu := by
  obtain ⟨l, c, rfl⟩ := fetchHalf_ok hf
  exact (State.cpu_with_icache { s with tlb := l } c).trans (State.cpu_with_tlb s l)

section
variable {s t : State} {w : Half}

theorem State.fetchFirst_of_decode {i : Instr} {rest : List Half} (hf : s.fetchHalf s.cpu.pc = .ok (w, t))
    (hd : decode s.params.opcodes [w] = .ok (i, rest)) : s.fetchFirst = .ok (i, t) := by
  simp [fetchFirst, hf, hd]

theorem State.fetchFirst_of_truncated (hf : s.fetchHalf s.cpu.pc = .ok (w, t))
    (hd : decode s.params.opcodes [w] = .error .truncated) : s.fetchFirst = .error (t.holdFirst w) := by
  simp [fetchFirst, hf, hd]

theorem State.fetchSecond_of_decode {i : Instr} {rest : List Half} {first : Half}
    (hf : s.fetchHalf (pcAdd s.cpu.pc 1) = .ok (w, t))
    (hd : decode s.params.opcodes [first, w] = .ok (i, rest)) :
    s.fetchSecond first = .next (t.withRest (some (.access i))).stay := by
  simp [fetchSecond, hf, hd]

theorem State.atExtended_of_truncated (hf : s.fetchHalf s.cpu.pc = .ok (w, t))
    (hd : decode s.params.opcodes [w] = .error .truncated) : s.atExtended = true := by
  simp [atExtended, hf, hd]

end

theorem State.fetchDecode_of_idle {s : State} (h : s.cpu.run = none) : s.fetchDecode = s.fetchFirst := by
  simp [fetchDecode, h]

theorem State.fetchDecode_of_second {s : State} {w : Half} (h : s.cpu.run = some (.second w)) :
    s.fetchDecode = .error (s.fetchSecond w) := by
  simp [fetchDecode, h]

theorem State.fetchDecode_of_access {s : State} {i : Instr} (h : s.cpu.run = some (.access i)) :
    s.fetchDecode = .ok (i, s.withRest none) := by
  simp [fetchDecode, h]

theorem State.holdFirst_of_placed {s : State} {w : Half} (hrti : s.cpu.rti1 = false)
    (hplace : s.cpu.misplaced = false) : s.holdFirst w = .next (s.withRest (some (.second w))).stay := by
  simp [holdFirst, hrti, hplace]

/-- A PU that holds the rest of an instruction waits and keeps everything else. -/
theorem State.stay_withRest (s : State) (r : Rest) :
    (s.withRest (some r)).stay.event = .waiting ∧ (s.withRest (some r)).stay.cpu.run = some r ∧
      Unchanged s (s.withRest (some r)).stay [.run] := by
  refine ⟨rfl, by simp, ?_⟩
  exact (unchanged_withRest s (some r)).trans (State.modCpu_turn ..) (unchanged_withEvent _ _)

/-- Settles O6: one clause for each thing that can be left of the instruction: nothing, its second halfword,
its access. -/
theorem stepRunsDecoded : Obligations.StepRunsDecoded := by
  intro s d s0 filled holds hacc hw hs hf
  have hgo : (∀ x, s0.cpu.run ≠ some (.move x)) → s0.preempt = none := fun h =>
    State.preempt_eq_none hacc (State.moving_eq_false h) hw hs hf
  refine ⟨?_, ?_, fun i hrun hpair => ?_⟩
  · intro va hrun hallow hcoh
    have hfetch := State.fetchHalf_of_coherent hallow hcoh
    have hcpu := State.cpu_of_fetchHalf hfetch
    have hpre : s0.preempt = none := hgo (by simp [hrun])
    refine ⟨fun i hpair hdec => ?_, fun hrti hplace hdec => ?_⟩
    · refine step_of_fetchDecode_ok hpre ?_ (State.pairBroken_eq_false (by rwa [hcpu]))
      rw [State.fetchDecode_of_idle hrun]
      exact State.fetchFirst_of_decode hfetch hdec
    · refine ⟨_, ?_, State.stay_withRest _ _⟩
      refine step_of_fetchDecode_error (o := .next _) hpre ?_
      rw [State.fetchDecode_of_idle hrun, State.fetchFirst_of_truncated hfetch hdec,
        State.holdFirst_of_placed (by rwa [hcpu]) (by rwa [hcpu])]
  · intro w i vb hrun hallow hcoh hdec
    refine ⟨_, ?_, State.stay_withRest _ _⟩
    refine step_of_fetchDecode_error (o := .next _) (hgo (by simp [hrun])) ?_
    rw [State.fetchDecode_of_second hrun,
      State.fetchSecond_of_decode (State.fetchHalf_of_coherent hallow hcoh) hdec]
  · exact step_of_fetchDecode_ok (hgo (by simp [hrun])) (State.fetchDecode_of_access hrun)
      (State.pairBroken_eq_false (by simpa using hpair))

/-! ### Skipped, halted and frozen slots (10_state.md R71, 45_control.md R332) -/

@[simp] theorem State.skipSlot_cpu (s : State) : s.skipSlot.cpu = (s.cpu.withBit bitS false).sequential :=
  (State.cpu_with_event ..).trans (State.modCpu_cpu ..)

theorem State.skipSlot_at (s : State) : s.skipSlot.At s.cpu.npc (pcAdd s.cpu.npc 1) false .skipped := by
  refine ⟨?_, ?_, ?_, ?_, ?_, rfl⟩ <;> simp

theorem State.skipSlot_flagS (s : State) : s.skipSlot.cpu.flagS = false := by
  simp [PU.flagS, bitS, -BitVec.getLsbD_eq_getElem]

theorem unchanged_skipSlot (s : State) : Unchanged s s.skipSlot (stepParts ++ [.status 27]) := by
  have h := (unchanged_withBit s 27 false).trans (State.modCpu_turn ..)
    (unchanged_sequential (s.modCpu (fun u => u.withBit 27 false)) .skipped)
  rw [State.modCpu_modCpu] at h
  exact h.mono (by simp)

/-- A Wait ends exactly where its condition is met. -/
theorem State.waitEnds_iff (s : State) (q : PuId) : s.waitEnds q = true ↔ s.WaitMet q := by
  unfold waitEnds WaitMet
  split
  · simp [*]
  · rename_i m hm
    simp [hm, mem_targets, and_assoc]

/-- A PU that leaves its Wait. -/
theorem PU.leaveWait_ends (u : PU) : WaitEnds u u.leaveWait := by
  refine ⟨?_, rfl, rfl, rfl, rfl, rfl, rfl, rfl, rfl⟩
  simp [leaveWait, flagW, bitW, -BitVec.getLsbD_eq_getElem]

theorem PU.leaveWait_status (u : PU) {j : Nat} (h : j ≠ 25) : u.leaveWait.sscr.getLsbD j = u.sscr.getLsbD j := by
  simp [leaveWait, bitW, setBit_getLsbD, h, -BitVec.getLsbD_eq_getElem]

theorem unchanged_leaveWait (s : State) :
    Unchanged s (s.setCpu s.cpu.leaveWait) (stepParts ++ [.status 25, .waitMask, .waitEnded]) :=
  unchanged_setCpu (u := s.cpu.leaveWait) (e := (s.setCpu s.cpu.leaveWait).event)
    (fun _ _ => rfl)
    (fun b hb => PU.leaveWait_status _ fun h => hb (by simp [show b = 25 from Fin.ext h]))
    (fun h => absurd (by simp [stepParts]) h) (fun _ => rfl) (fun _ => rfl) (fun _ => rfl) (fun _ => rfl)
    (fun _ => rfl) (fun _ => ⟨rfl, rfl⟩) (fun _ => rfl) (fun h => absurd (by simp [stepParts]) h)
    (fun h => absurd (by simp [stepParts]) h) (fun h => absurd (by simp) h) (fun _ => rfl) (fun _ => rfl)
    (fun _ _ => rfl) (fun h => absurd (by simp) h)

theorem State.haltedSlot_pu (s : State) (q : PuId) :
    s.haltedSlot.pu q = if s.waitEnds q then (s.pu q).leaveWait else s.pu q :=
  (State.pu_with_event ..).trans (s.releaseWaits_pu q)

theorem State.haltedSlot_cpu (s : State) :
    s.haltedSlot.cpu = if s.waitEnds s.turn then s.cpu.leaveWait else s.cpu :=
  s.haltedSlot_pu s.turn

theorem unchanged_haltedSlot_of_stays {s : State} (h : s.haltedSlot.cpu = s.cpu) :
    Unchanged s s.haltedSlot [.otherPus] := by
  refine Unchanged.of_pus rfl ?_ fun h => absurd (List.mem_singleton.mpr rfl) h
  rw [h, State.setCpu_self]
  exact (Unchanged.refl s).mono (by simp)

theorem unchanged_haltedSlot (s : State) :
    Unchanged s s.haltedSlot (stepParts ++ [.status 25, .waitMask, .waitEnded, .otherPus]) := by
  by_cases hends : s.waitEnds s.turn = true
  · refine Unchanged.of_pus rfl ?_ fun h => absurd (by simp) h
    rw [s.haltedSlot_cpu, if_pos hends]
    exact (unchanged_leaveWait s).mono (by simp)
  · refine (unchanged_haltedSlot_of_stays ?_).mono (by simp)
    rw [s.haltedSlot_cpu, if_neg hends]

/-- A PU in no Wait, or in one with an empty mask, leaves none. -/
theorem State.haltedSlot_stays {s : State} (h : s.cpu.waitMask = none ∨ s.cpu.waitMask = some 0) :
    s.haltedSlot.cpu = s.cpu := by
  have hmask : (s.pu s.turn).waitMask = none ∨ (s.pu s.turn).waitMask = some 0 := h
  rw [s.haltedSlot_cpu, if_neg]
  rw [s.waitEnds_iff]
  rintro ⟨-, m, hm, hne, -⟩
  obtain h | h := hmask
  · simp [h] at hm
  · rw [h] at hm
    exact hne (Option.some.inj hm).symm

/-- Settles O7: one clause for each thing that stands in an instruction's place. -/
theorem skippedAndHaltedSlots : Obligations.SkippedAndHaltedSlots := by
  intro s s0 hacc
  refine ⟨fun x hrun => step_of_preempt (State.preempt_of_move hacc hrun), fun hrun => ?_⟩
  have hmove : s0.moving = false := State.moving_eq_false (by simp [hrun])
  have hhalted (hw : s0.cpu.flagW = true) : step s = .next (s0.haltedSlot.finishStep s0.cpu.flagU) :=
    step_of_preempt (State.preempt_of_halted hacc hmove hw)
  refine ⟨fun hw hs => ?_, fun hw hmask => ?_, fun hw => ?_, fun hw hs hf => ?_⟩
  · have hskip := step_of_preempt (State.preempt_of_skip hacc hmove hw hs)
    refine ⟨fun hplain => ?_, fun d hallow hcoh hdec => ?_⟩
    · rw [hplain] at hskip
      exact ⟨_, hskip, s0.skipSlot_at, s0.skipSlot_flagS, unchanged_skipSlot s0⟩
    · rw [State.atExtended_of_truncated (State.fetchHalf_of_coherent hallow hcoh) hdec] at hskip
      exact hskip
  · have hcpu := State.haltedSlot_stays hmask
    exact ⟨_, hhalted hw, hcpu, rfl, unchanged_haltedSlot_of_stays hcpu⟩
  · refine ⟨_, hhalted hw, rfl, fun q => ⟨fun hmet => ?_, fun hnot => ?_⟩, unchanged_haltedSlot s0⟩
    · rw [s0.haltedSlot_pu, if_pos ((s0.waitEnds_iff q).mpr hmet)]
      exact ⟨PU.leaveWait_ends _, fun j _ hj => PU.leaveWait_status _ hj⟩
    · rw [s0.haltedSlot_pu, if_neg (mt (s0.waitEnds_iff q).mp hnot)]
  · exact ⟨_, step_of_preempt (State.preempt_of_frozen hacc hmove hw hs hf), rfl, unchanged_withEvent _ _⟩

end Sys2Proof.Machine
end

section
/-! PROOFS. The views of S0 and S6 (10_state.md R50, R56): the encodings of a field definition and of window and
semaphores are undone by their reads, whatever layout the parameters choose (L19, L20). -/

namespace Sys2Proof.Machine

/-! ### Moves of special registers (40_load_store_move.md R169, R170) -/

theorem exec_movFS_of_allowed {s : State} (ra : Reg) {sp : SReg} (hsp : sp ≠ .reserved5)
    (h : s.sregDenied sp = false) : exec (.movFS ra sp) s = .next (s.wr ra (s.readSpecial sp)).advance :=
  if_neg (by simp [hsp, h])

theorem exec_movTS_of_allowed {s t : State} {rb : Reg} {sp : SReg} (hsp : notDestination sp = false)
    (h : s.sregDenied sp = false) (hw : s.writeSpecial sp (s.rd rb) = some t) :
    exec (.movTS rb sp) s = .next t.advance := by
  show execMovTS rb sp s = _
  simp [execMovTS, hsp, h, hw]

/-- What a special register read into a general one leaves there. -/
theorem reg_of_movFS {s t : State} {ra : Reg} {sp : SReg} (hsp : sp ≠ .reserved5)
    (h : s.sregDenied sp = false) (hx : exec (.movFS ra sp) s = .next t) : t.cpu.reg ra = s.readSpecial sp := by
  rw [exec_movFS_of_allowed ra hsp h] at hx
  obtain rfl := Host.Outcome.next.inj hx
  simp

/-! ### The Mask register (43_shift_logical_field.md R260) -/

theorem fin32_bits_injective {p q : Fin 32} (h : BitVec.ofNat 5 p.val = BitVec.ofNat 5 q.val) : p = q := by
  have hn := congrArg BitVec.toNat h
  simp only [BitVec.toNat_ofNat] at hn
  omega

theorem maskPack_injective {p l q m : Fin 32} (h : maskPack p l = maskPack q m) : p = q ∧ l = m := by
  unfold maskPack at h
  have hlow := congrArg (BitVec.extractLsb' 0 5) h
  rw [BitVec.extractLsb'_append_eq_right, BitVec.extractLsb'_append_eq_right] at hlow
  rw [hlow, BitVec.append_left_inj, BitVec.append_right_inj] at h
  exact ⟨fin32_bits_injective hlow, fin32_bits_injective h⟩

theorem maskEnc_injective {p l q m : Fin 32} (hp : p ≤ l) (hq : q ≤ m) (h : maskEnc p l = maskEnc q m) :
    p = q ∧ l = m := by
  unfold maskEnc at h
  split at h
  · exact ‹maskRawInjective› p l q m hp hq h
  · exact maskPack_injective h

theorem mem_fieldPairs (p l : Fin 32) : (p, l) ∈ fieldPairs := by
  simp [fieldPairs]

/-- A legal definition is read back from its encoding. -/
theorem maskDec_maskEnc {p l : Fin 32} (h : p ≤ l) : maskDec (maskEnc p l) = some (p, l) := by
  unfold maskDec
  cases hfind : fieldPairs.find? (fun f => decide (f.1 ≤ f.2) && maskEnc f.1 f.2 == maskEnc p l) with
  | none =>
    have hno := List.find?_eq_none.mp hfind (p, l) (mem_fieldPairs p l)
    simp [h] at hno
  | some f =>
    have hf := List.find?_some hfind
    simp only [Bool.and_eq_true, decide_eq_true_eq, beq_iff_eq] at hf
    obtain ⟨hpos, hleft⟩ := maskEnc_injective hf.1 h hf.2
    rw [← hpos, ← hleft]

/-- The bits of a legal definition define the same field. -/
theorem MaskReg.field?_raw_bits {m : MaskReg} {f : Fin 32 × Fin 32} (h : m.field? = some f) :
    (MaskReg.raw m.bits).field? = some f := by
  cases m with
  | raw v => exact h
  | field p l =>
    by_cases hle : p ≤ l
    · rw [← h]
      simp [field?, bits, hle, maskDec_maskEnc hle]
    · simp [field?, hle] at h

/-! ### S6Layout (40_load_store_move.md R169, R170) -/

theorem s6Bit_lt {k : Nat} (h : k < 28) : s6Bit k < 32 := by
  unfold s6Bit
  split
  · exact (Config.s6Position k).isLt
  · omega

theorem s6Bit_injective {j k : Nat} (hj : j < 28) (hk : k < 28) (h : s6Bit j = s6Bit k) : j = k := by
  unfold s6Bit at h
  split at h
  · exact Fin.mk.inj (‹s6Distinct› ⟨j, hj⟩ ⟨k, hk⟩ (Fin.ext h))
  · exact h

/-- Bits written one after another, each in a place of its own. -/
theorem foldl_setBit_getLsbD {place : Nat → Nat} {n : Nat} (hlt : ∀ k < n, place k < 32)
    (hinj : ∀ j < n, ∀ k < n, place j = place k → j = k) (b : Nat → Bool) {m : Nat} (hm : m ≤ n) {j : Nat}
    (hj : j < m) :
    ((List.range m).foldl (fun w k => setBit w (place k) (b k)) 0).getLsbD (place j) = b j := by
  induction m with
  | zero => omega
  | succ m ih =>
    rw [List.range_succ, List.foldl_concat, setBit_getLsbD _ _ _ _ (hlt m (by omega))]
    by_cases hjm : j = m
    · rw [if_pos (by rw [hjm]), hjm]
    · rw [if_neg fun h => hjm (hinj j (by omega) m (by omega) h)]
      exact ih (by omega) (by omega)

theorem s6Pack_getLsbD (window : BitVec 20) (sem : BitVec 8) {k : Nat} (h : k < 28) :
    (s6Pack window sem).getLsbD (s6Bit k) = (sem ++ window : BitVec (8 + 20)).getLsbD k :=
  foldl_setBit_getLsbD (fun _ => s6Bit_lt) (fun _ hj _ hk => s6Bit_injective hj hk) _ le_rfl h

theorem setBit8_getLsbD (w : BitVec 8) {k j : Nat} (b : Bool) (hj : j < 8) :
    (setBit8 w k b).getLsbD j = if j = k then b else w.getLsbD j := by
  have hone : (1#8 <<< k).getLsbD j = decide (j = k) := by
    by_cases h : j = k
    · subst h
      simp [hj]
    · simp [BitVec.getLsbD_shiftLeft, BitVec.getLsbD_one, h]
      omega
  by_cases h : j = k
  · subst h
    cases b <;> simp [setBit8, hj]
  · cases b <;> simp [setBit8, hone, h, hj, -BitVec.getLsbD_eq_getElem]

theorem foldl_setBit8_getLsbD (b : Nat → Bool) (n : Nat) {j : Nat} (hj : j < 8) :
    ((List.range n).foldl (fun w k => setBit8 w k (b k)) 0).getLsbD j = (decide (j < n) && b j) := by
  induction n with
  | zero => simp
  | succ n ih =>
    rw [List.range_succ, List.foldl_concat, setBit8_getLsbD _ _ hj, ih]
    by_cases h : j = n
    · simp [h]
    · simp [h, show j < n + 1 ↔ j < n by omega]

theorem foldl_or_getLsbD (b : Nat → Bool) (n : Nat) {j : Nat} (hj : j < 20) :
    ((List.range n).foldl (fun w k => w ||| (BitVec.ofNat 20 (b k).toNat <<< k)) 0).getLsbD j =
      (decide (j < n) && b j) := by
  induction n with
  | zero => simp
  | succ n ih =>
    have hbit : (BitVec.ofNat 20 (b n).toNat <<< n).getLsbD j = (decide (j = n) && b j) := by
      by_cases h : j = n
      · subst h
        cases hb : b j <;> simp [hj]
      · cases hb : b n <;> simp [h, BitVec.getLsbD_shiftLeft, BitVec.getLsbD_one]
        omega
    rw [List.range_succ, List.foldl_concat, BitVec.getLsbD_or, ih, hbit]
    by_cases h : j = n
    · simp [h]
    · simp [h, show j < n + 1 ↔ j < n by omega]

theorem s6Sems_s6Pack (window : BitVec 20) (sem : BitVec 8) : s6Sems (s6Pack window sem) = sem := by
  apply BitVec.eq_of_getLsbD_eq
  intro j hj
  rw [s6Sems, foldl_setBit8_getLsbD _ _ hj, s6Pack_getLsbD _ _ (by omega), BitVec.getLsbD_append,
    if_neg (by omega), Nat.add_sub_cancel_left, decide_eq_true hj, Bool.true_and]

theorem s6Window_s6Pack (window : BitVec 20) (sem : BitVec 8) : s6Window (s6Pack window sem) = window := by
  apply BitVec.eq_of_getLsbD_eq
  intro j hj
  rw [s6Window, foldl_or_getLsbD _ _ hj, s6Pack_getLsbD _ _ (by omega), BitVec.getLsbD_append, if_pos hj,
    decide_eq_true hj, Bool.true_and]

/-! ### A write of S6 (10_state.md R56) -/

/-- What a Mov to S6 of a word leaves: the semaphores of the PU's cluster, and in cluster 1 the window. -/
def State.withS6 (s : State) (v : Word) : State :=
  { s with
    sem0 := if s.cpu.flagCN then s.sem0 else s6Sems v
    sem1 := if s.cpu.flagCN then s6Sems v else s.sem1
    window1 := if s.cpu.flagCN then s6Window v else s.window1 }

theorem State.writeSpecial_window (s : State) (v : Word) : s.writeSpecial .window v = some (s.withS6 v) := by
  cases h : s.cpu.flagCN <;> simp [writeSpecial, withS6, setSems, h]

theorem State.withS6_sems (s : State) (v : Word) (cn : Bool) :
    (s.withS6 v).sems cn = if cn = s.cpu.flagCN then s6Sems v else s.sems cn := by
  cases h : s.cpu.flagCN <;> cases cn <;> simp [withS6, sems, h]

theorem State.withS6_window (s : State) (v : Word) :
    (s.withS6 v).window s.cpu.flagCN =
      if s.cpu.flagCN then Config.windowAddress (s6Window v) else window0 := by
  cases h : s.cpu.flagCN <;> simp [withS6, window, h]

theorem State.withS6_turn (s : State) (v : Word) : (s.withS6 v).turn = s.turn := rfl

theorem State.withS6_pu (s : State) (v : Word) (p : PuId) : (s.withS6 v).pu p = s.pu p := by
  cases p <;> rfl

theorem unchanged_withS6 (s : State) (v : Word) : Unchanged s (s.withS6 v) [.semaphores, .window] := by
  have hcpu : (s.withS6 v).cpu = s.cpu := s.withS6_pu v s.turn
  intro p hp
  cases p with
  | semaphores | window => exact absurd (by simp) hp
  | otherPus => exact fun q _ => s.withS6_pu v q
  | memory | dataCache | instCache | stored | tlb | test | eventCounters | eventConfig | interruptArgument
  | pageTable | pending | model => simp [Part.Same, State.withS6]
  | reg r | status b | counters | mask | remainder | product | statusSave | trapArg | queue | returnMark
  | waitSem | run | waitMask | pendInter | pendRestart | intervals | waitEnded => simp [Part.Same, hcpu]

@[simp] theorem State.advance_sems (s : State) (cn : Bool) : s.advance.sems cn = s.sems cn := by
  simp [sems]

@[simp] theorem State.advance_window (s : State) (cn : Bool) : s.advance.window cn = s.window cn := by
  simp [window]

/-- What S6 shows of the cluster's window is what it was made from, or the constant's. -/
theorem State.window_of_readS6 (s : State) :
    (if s.cpu.flagCN then Config.windowAddress (s6Window (s.readSpecial .window)) else window0) =
      s.window s.cpu.flagCN := by
  cases h : s.cpu.flagCN <;> simp [readSpecial, s6Window_s6Pack, windowBits, window, h]

/-- Settles O46: each view is undone by its encoding's inverse. -/
theorem savedViewsRestore : Obligations.SavedViewsRestore := by
  refine ⟨fun s t v w ra rb p l hfield hs hv hread hrd hwrite => ?_,
    fun s t v w ra rb hcn hs hv hread hrd hwrite => ?_⟩
  · rw [reg_of_movFS (by decide) hs hread] at hrd
    rw [exec_movTS_of_allowed rfl hv rfl, hrd] at hwrite
    obtain rfl := Host.Outcome.next.inj hwrite
    have hbits : (s.readSpecial .mask).extractLsb' 0 15 = s.cpu.mask.bits := BitVec.extractLsb'_append_eq_right
    simpa [hbits] using MaskReg.field?_raw_bits hfield
  · rw [reg_of_movFS (by decide) hs hread] at hrd
    rw [exec_movTS_of_allowed rfl hv (v.writeSpecial_window _), hrd] at hwrite
    obtain rfl := Host.Outcome.next.inj hwrite
    refine ⟨?_, ?_, rfl, ?_, ?_⟩
    · rw [State.advance_sems, State.withS6_sems, if_pos hcn.symm]
      exact s6Sems_s6Pack _ _
    · rw [State.advance_window, ← hcn, State.withS6_window, hcn, State.window_of_readS6]
    · rw [State.advance_sems, State.withS6_sems, if_neg (by simp [hcn])]
    · exact ((unchanged_withS6 v _).trans (v.withS6_turn _) (unchanged_advance _)).mono (by simp)

end Sys2Proof.Machine
end

section
/-! SUPPORT. The instructions that access memory (40_load_store_move.md R163 to R179): an equation for each, or for
each outcome of its access. -/

namespace Sys2Proof.Machine

theorem exec_ldWB (rb : Reg) (base : Fin 4) (disp : Nat) (s : State) :
    exec (.ldWB rb base disp) s =
      .next (s.loadInto rb (wordAddress (s.rd (baseReg base)) disp) State.advance) := rfl

theorem exec_ldWR (rb ra : Reg) (s : State) :
    exec (.ldWR rb ra) s = .next (s.loadInto rb (wordAddress (s.rd ra) 0) State.advance) := rfl

theorem exec_ldWE (rb ra : Reg) (disp : Nat) (s : State) :
    exec (.ldWE rb ra disp) s = if s.cpu.misplaced then .refused .extendedAfterBranch
      else .next (s.loadInto rb (wordAddress (s.rd ra) disp) State.advanceExtended) := rfl

theorem exec_ldWD (rb : Reg) (disp : Nat) (s : State) :
    exec (.ldWD rb disp) s = if disp ≤ 7 ∧ s.sem s.cpu.flagCN disp = false
      then .next (s.freeze s.cpu.flagCN disp true)
      else .next (s.loadInto rb (s.directWA disp) (fun t => t.endDirect s.cpu.flagCN disp false)) := rfl

theorem exec_stWB (rb : Reg) (base : Fin 4) (disp : Nat) (s : State) :
    exec (.stWB rb base disp) s =
      .next (s.storeFrom (wordAddress (s.rd (baseReg base)) disp) (s.rd rb) State.advance) := rfl

theorem exec_stWR (rb base : Reg) (s : State) :
    exec (.stWR rb base) s = .next (s.storeFrom (wordAddress (s.rd base) 0) (s.rd rb) State.advance) := rfl

theorem exec_stWE (rb base : Reg) (disp : Nat) (s : State) :
    exec (.stWE rb base disp) s = if s.cpu.misplaced then .refused .extendedAfterBranch
      else .next (s.storeFrom (wordAddress (s.rd base) disp) (s.rd rb) State.advanceExtended) := rfl

theorem exec_stWD (rb : Reg) (disp : Nat) (s : State) :
    exec (.stWD rb disp) s = if disp ≤ 7 ∧ s.sem s.cpu.flagCN disp = true
      then .next (s.freeze s.cpu.flagCN disp false)
      else .next (s.storeFrom (s.directWA disp) (s.rd rb) (fun t => t.endDirect s.cpu.flagCN disp true)) := rfl

theorem exec_ldM (rb ra : Reg) (s : State) :
    exec (.ldM rb ra) s = if rb = 0 then .refused .emptyRegisterRun
      else .next (s.transferOne ⟨true, rb, ra, s.rd ra, rb⟩) := rfl

theorem exec_stM (rb ra : Reg) (s : State) :
    exec (.stM rb ra) s = if rb = 0 then .refused .emptyRegisterRun
      else .next (s.transferOne ⟨false, rb, ra, s.rd ra, rb⟩) := rfl

section
variable {s : State} {d p : Reg}

theorem exec_ldB_of_fault {f : MemFault}
    (h : (s.wr p (nextBytePtr (s.rd p))).loadByte (byteOfPointer (s.rd p)) = .error f) :
    exec (.ldB d p) s = .next ((s.wr p (nextBytePtr (s.rd p))).dataFault f (s.rd p)) := by
  simp [exec, execLdB, h]

theorem exec_ldB_of_ok {r : Byte × State}
    (h : (s.wr p (nextBytePtr (s.rd p))).loadByte (byteOfPointer (s.rd p)) = .ok r) :
    exec (.ldB d p) s = .next (r.2.wr d (zeroExtendByte r.1)).advance := by
  simp [exec, execLdB, h]

theorem exec_stB_of_fault {f : MemFault} (h : (s.wr p (nextBytePtr (s.rd p))).storeByte
    (byteOfPointer (s.rd p)) ((s.rd d).extractLsb' 0 8) = .error f) :
    exec (.stB d p) s = .next ((s.wr p (nextBytePtr (s.rd p))).dataFault f (s.rd p)) := by
  simp [exec, execStB, h]

theorem exec_stB_of_ok {t : State} (h : (s.wr p (nextBytePtr (s.rd p))).storeByte
    (byteOfPointer (s.rd p)) ((s.rd d).extractLsb' 0 8) = .ok t) :
    exec (.stB d p) s = .next t.advance := by
  simp [exec, execStB, h]

end

end Sys2Proof.Machine
end

section
/-! PROOFS. Memory stays in canonical form (L11): which operations leave memory alone, what each way through a
step does, and the form kept by the accesses of instructions. -/

namespace Sys2Proof.Machine

/-! ### What a step can do (10_state.md R34) -/

theorem ended_next {o : Out} {user : Bool} {t : State} (h : ended o user = .next t) :
    ∃ v, o = .next v ∧ t = v.finishStep user := by
  cases o with
  | next v => exact ⟨v, rfl, (Host.Outcome.next.inj h).symm⟩
  | fault f => cases h
  | refused r => cases h

/-- A step that has a next state ends what takes an instruction's place, what stands in the place of one at its
fetch, or an instruction. -/
theorem step_next {s t : State} (h : step s = .next t) :
    ∃ v, t = v.finishStep s.beginStep.cpu.flagU ∧
      (s.beginStep.preempt = some (.next v) ∨ s.beginStep.fetchDecode = .error (.next v) ∨
        ∃ i u, s.beginStep.fetchDecode = .ok (i, u) ∧ exec i u = .next v) := by
  unfold step at h
  dsimp only at h
  split at h
  · obtain ⟨v, rfl, rfl⟩ := ended_next h
    exact ⟨v, rfl, .inl ‹_›⟩
  · split at h
    · obtain ⟨v, rfl, rfl⟩ := ended_next h
      exact ⟨v, rfl, .inr (.inl ‹_›)⟩
    · split at h
      · cases h
      · obtain ⟨v, hexec, rfl⟩ := ended_next h
        exact ⟨v, rfl, .inr (.inr ⟨_, _, ‹_›, hexec⟩)⟩

theorem State.preempt_next {s v : State} (h : s.preempt = some (.next v)) :
    (∃ n, v = s.takeInterrupt n) ∨ v = s.continueRun ∨ v = s.haltedSlot ∨ v = s.skipSlot ∨ v = s.stay := by
  unfold preempt at h
  repeat' split at h
  all_goals cases h
  · exact .inl ⟨_, rfl⟩
  · exact .inr (.inl rfl)
  · exact .inr (.inr (.inl rfl))
  · exact .inr (.inr (.inr (.inl rfl)))
  · exact .inr (.inr (.inr (.inr rfl)))

theorem State.illegalHalf_next {s v : State} (h : s.illegalHalf = .next v) : v = s.raiseIllegal := by
  unfold illegalHalf at h
  split at h
  · cases h
  · exact (Host.Outcome.next.inj h).symm

/-- What stands in the place of an instruction at its fetch: a fault of the fetch, or after it the trap of a
halfword that matches no form, or the wait for the rest of the instruction. -/
theorem State.fetchDecode_error_next {s v : State} (h : s.fetchDecode = .error (.next v)) :
    (∃ second f a, v = s.fetchFault second f a) ∨
      ∃ a w u, s.fetchHalf a = .ok (w, u) ∧ (v = u.raiseIllegal ∨ ∃ r, v = (u.withRest (some r)).stay) := by
  unfold fetchDecode at h
  split at h
  · have hsecond := Except.error.inj h
    unfold fetchSecond at hsecond
    dsimp only at hsecond
    split at hsecond
    · exact .inl ⟨_, _, _, (Host.Outcome.next.inj hsecond).symm⟩
    · split at hsecond
      · exact .inr ⟨_, _, _, ‹_›, .inr ⟨_, (Host.Outcome.next.inj hsecond).symm⟩⟩
      · exact .inr ⟨_, _, _, ‹_›, .inl (illegalHalf_next hsecond)⟩
  · cases h
  all_goals
    unfold fetchFirst at h
    split at h
    · exact .inl ⟨_, _, _, (Host.Outcome.next.inj (Except.error.inj h)).symm⟩
    · split at h
      · cases h
      · exact .inr ⟨_, _, _, ‹_›, .inl (illegalHalf_next (Except.error.inj h))⟩
      · exact .inr ⟨_, _, _, ‹_›, .inr ⟨_, (holdFirst_next _ _ _ (Except.error.inj h)).1⟩⟩

/-! ### Operations that leave memory alone -/

@[simp] theorem State.enter_mem (s : State) (p : PuId) (n : Fin 32) (sv : HAddr × HAddr) :
    (s.enter p n sv).mem = s.mem := by
  rw [enter_eq]
  exact setPu_mem ..

@[simp] theorem State.raiseAt_mem (s : State) (n : Fin 32) (sv : HAddr × HAddr) : (s.raiseAt n sv).mem = s.mem :=
  enter_mem ..

@[simp] theorem State.raise_mem (s : State) (n : Fin 32) : (s.raise n).mem = s.mem := enter_mem ..

@[simp] theorem State.raiseIllegal_mem (s : State) : s.raiseIllegal.mem = s.mem := enter_mem ..

@[simp] theorem State.dataFault_mem (s : State) (f : MemFault) (ptr : Word) : (s.dataFault f ptr).mem = s.mem :=
  (raise_mem ..).trans (modCpu_mem ..)

@[simp] theorem State.fetchFault_mem (s : State) (second : Bool) (f : MemFault) (h : HAddr) :
    (s.fetchFault second f h).mem = s.mem := by
  cases f <;> simp [fetchFault, recordArgument]

@[simp] theorem State.takeBranch_mem (s : State) (a : HAddr) : (s.takeBranch a).mem = s.mem := by
  unfold takeBranch
  split <;> simp

@[simp] theorem State.advanceBranch_mem (s : State) : s.advanceBranch.mem = s.mem := by
  simp [advanceBranch]

@[simp] theorem State.forPus_mem (s : State) (ps : List PuId) (f : PU → PU) : (s.forPus ps f).mem = s.mem :=
  (s.forPus_frame ps f).1

@[simp] theorem State.releaseWaits_mem (s : State) : s.releaseWaits.mem = s.mem := rfl

@[simp] theorem State.setSems_mem (s : State) (cn : Bool) (v : BitVec 8) : (s.setSems cn v).mem = s.mem := by
  cases cn <;> rfl

@[simp] theorem State.endDirect_mem (s : State) (cn : Bool) (disp : Nat) (b : Bool) :
    (s.endDirect cn disp b).mem = s.mem := by
  unfold endDirect
  split <;> simp [setSem]

@[simp] theorem State.commitAdd_mem (s : State) (rb : Reg) (r : Word × Flags) : (s.commitAdd rb r).mem = s.mem := by
  unfold commitAdd
  cases Config.ovfCommit <;> split <;> simp

@[simp] theorem State.commitField_mem (s : State) (r : Reg) (f : Fin 32 → Fin 32 → Word) :
    (s.commitField r f).mem = s.mem := by
  unfold commitField
  split <;> simp [commitNZ]

@[simp] theorem State.divide_mem (s : State) (rb : Reg) (q r : Word) : (s.divide rb q r).mem = s.mem := by
  simp [divide]

@[simp] theorem State.divideTrap_mem (s : State) : s.divideTrap.mem = s.mem := by
  simp [divideTrap]

theorem State.writeSpecial_mem {s t : State} {sp : SReg} {v : Word} (h : s.writeSpecial sp v = some t) :
    t.mem = s.mem := by
  cases sp <;> cases h
  case window => split <;> simp
  all_goals simp

@[simp] theorem State.clearCause_mem (s : State) (n : Fin 32) : (s.clearCause n).mem = s.mem := by
  unfold clearCause
  repeat' split
  all_goals simp

@[simp] theorem State.takeInterrupt_mem (s : State) (n : Fin 32) : (s.takeInterrupt n).mem = s.mem := by
  unfold takeInterrupt
  dsimp only
  split
  · exact clearCause_mem s n
  · exact (enter_mem ..).trans (clearCause_mem s n)

@[simp] theorem State.skipSlot_mem (s : State) : s.skipSlot.mem = s.mem := modCpu_mem ..

theorem State.input_mem (s : State) : s.input.mem = s.mem := by
  unfold input
  split
  · rfl
  · dsimp only
    split
    · rfl
    · unfold arrive
      split <;> rfl

@[simp] theorem State.beginStep_mem (s : State) : s.beginStep.mem = s.mem := by
  refine (modCpu_mem s.input.thaw PU.track).trans ?_
  unfold thaw
  split
  · exact s.input_mem
  · exact (modCpu_mem ..).trans s.input_mem

@[simp] theorem State.freeRun_mem (s : State) (k : Nat) : (s.freeRun k).mem = s.mem := by
  induction k generalizing s with
  | zero => rfl
  | succ k ih => exact (ih _).trans (wr_mem ..)

@[simp] theorem State.freeOverlap_mem (s : State) (x : Transfer) : (s.freeOverlap x).mem = s.mem := by
  unfold freeOverlap
  split <;> simp

@[simp] theorem State.faultAddress_mem (s : State) (ra : Reg) (a : Word) (n k : Nat) :
    (s.faultAddress ra a n k).mem = s.mem := by
  unfold faultAddress
  split <;> simp

@[simp] theorem State.faultCount_mem (s : State) (k : Nat) : (s.faultCount k).mem = s.mem := modCpu_mem ..

@[simp] theorem State.endLoads_mem (s : State) (x : Transfer) : (s.endLoads x).mem = s.mem := by
  simp [endLoads, freeCount]

@[simp] theorem State.runOn_mem (s : State) (x : Transfer) : (s.runOn x).mem = s.mem := modCpu_mem ..

@[simp] theorem State.freeze_mem (s : State) (cn : Bool) (disp : Nat) (v : Bool) :
    (s.freeze cn disp v).mem = s.mem := modCpu_mem ..

/-! ### Accesses -/

theorem State.loadInto_wf {s : State} (hm : memoryWf s.mem) (rb : Reg) (wa : WAddr) {adv : State → State}
    (hadv : ∀ u, (adv u).mem = u.mem) : memoryWf (s.loadInto rb wa adv).mem := by
  unfold loadInto
  split
  · rwa [dataFault_mem]
  · rw [hadv, wr_mem]
    exact loadWord_wf hm ‹_›

theorem State.storeFrom_wf {s : State} (hm : memoryWf s.mem) (wa : WAddr) (v : Word) {adv : State → State}
    (hadv : ∀ u, (adv u).mem = u.mem) : memoryWf (s.storeFrom wa v adv).mem := by
  unfold storeFrom
  split
  · rwa [dataFault_mem]
  · rw [hadv]
    exact storeWord_wf hm ‹_›

theorem State.transferOne_wf {s : State} (hm : memoryWf s.mem) (x : Transfer) : memoryWf (s.transferOne x).mem := by
  unfold transferOne
  split
  · unfold loadTransfer
    dsimp only
    split
    · simpa using hm
    · rename_i hload
      have hwf := loadWord_wf (by simpa using hm) hload
      split <;> simpa using hwf
  · unfold storeTransfer
    dsimp only
    split
    · simpa using hm
    · rename_i hstore
      have hwf := storeWord_wf (by simpa using hm) hstore
      split <;> simpa using hwf

theorem State.continueRun_wf {s : State} (hm : memoryWf s.mem) : memoryWf s.continueRun.mem := by
  unfold continueRun
  split
  · exact transferOne_wf hm _
  all_goals exact hm

@[simp] theorem State.fillTlb_mem (s : State) (va : VAddr) : (s.fillTlb va).mem = s.mem := by
  obtain ⟨l, hl⟩ := s.fillTlb_eq va
  rw [hl]

/-- A cache instruction traps, does nothing, or does its operation on a line of this node. -/
theorem State.cacheOp_cases (s : State) (a : WAddr) (k : AccessKind) (op : State → PAddr → PageDesc → State) :
    (∃ f, s.cacheOp a k op = s.dataFault f (zeroExtend30 a)) ∨ s.cacheOp a k op = s.advance ∨
      s.cacheOp a k op = (s.fillTlb (byteOfWord a)).advance ∨
      ∃ pa d, s.cacheOp a k op = (op (s.fillTlb (byteOfWord a)) pa d).advance := by
  unfold cacheOp
  split
  · exact .inl ⟨_, rfl⟩
  · split
    · exact .inl ⟨_, rfl⟩
    · exact .inr (.inl rfl)
  · split
    · exact .inl ⟨_, rfl⟩
    · exact .inr (.inl rfl)
  · exact .inr (.inr (.inl rfl))
  · exact .inr (.inr (.inr ⟨_, _, rfl⟩))

theorem State.cacheOp_wf {s : State} (hm : memoryWf s.mem) (a : WAddr) (k : AccessKind)
    {op : State → PAddr → PageDesc → State} (hop : ∀ u pa d, memoryWf u.mem → memoryWf (op u pa d).mem) :
    memoryWf (s.cacheOp a k op).mem := by
  obtain ⟨f, h⟩ | h | h | ⟨pa, d, h⟩ := s.cacheOp_cases a k op
  · rwa [h, dataFault_mem]
  · rwa [h, advance_mem]
  · rwa [h, advance_mem, fillTlb_mem]
  · rw [h, advance_mem]
    exact hop _ _ _ (by rwa [fillTlb_mem])

@[simp] theorem State.noteWritten_mem (s : State) (pa : PAddr) : (s.noteWritten pa).mem = s.mem := rfl

@[simp] theorem State.prefetchInst_mem (s : State) (pa : PAddr) : (s.prefetchInst pa).mem = s.mem := by
  unfold prefetchInst
  dsimp only
  split <;> rfl

/-! ### Instructions -/

/-- An instruction keeps the form of memory: a data access or a data cache instruction by what its access does,
every other leaves memory alone. -/
theorem exec_memoryWf {i : Instr} {s t : State} (hm : memoryWf s.mem) (h : exec i s = .next t) :
    memoryWf t.mem := by
  cases i with
  | cdc ra =>
    cases h
    exact State.cacheOp_wf hm _ _ fun u pa d hu => State.createLine_wf hu pa d
  | fdc ra =>
    cases h
    exact State.cacheOp_wf hm _ _ fun u pa _ hu => State.flushLine_wf hu pa
  | idc ra =>
    cases h
    exact State.cacheOp_wf hm _ _ fun u pa _ hu => State.invalidateLine_wf hu pa
  | udc ra =>
    cases h
    exact State.cacheOp_wf hm _ _ fun u pa _ hu => by rwa [State.noteWritten_mem, State.updateLine_mem]
  | vdc ra =>
    cases h
    exact State.cacheOp_wf hm _ _ fun u pa _ hu => by rwa [State.validateLine_mem]
  | pdc ra =>
    cases h
    exact State.cacheOp_wf hm _ _ fun u pa d hu => State.prefetchData_wf hu pa d
  | iic ra =>
    cases h
    exact State.cacheOp_wf hm _ _ fun _ _ _ hu => hu
  | picA ra | picR disp =>
    cases h
    exact State.cacheOp_wf hm _ _ fun u pa _ hu => by rwa [State.prefetchInst_mem]
  | ldWB rb base disp | ldWR rb ra =>
    cases h
    exact State.loadInto_wf hm _ _ State.advance_mem
  | stWB rb base disp | stWR rb base =>
    cases h
    exact State.storeFrom_wf hm _ _ State.advance_mem
  | ldWD rb disp =>
    rw [exec_ldWD] at h
    split at h <;> cases h
    · rwa [State.freeze_mem]
    · exact State.loadInto_wf hm _ _ fun u => u.endDirect_mem _ _ _
  | stWD rb disp =>
    rw [exec_stWD] at h
    split at h <;> cases h
    · rwa [State.freeze_mem]
    · exact State.storeFrom_wf hm _ _ fun u => u.endDirect_mem _ _ _
  | ldWE rb ra disp =>
    rw [exec_ldWE] at h
    split at h <;> cases h
    exact State.loadInto_wf hm _ _ State.advanceExtended_mem
  | stWE rb base disp =>
    rw [exec_stWE] at h
    split at h <;> cases h
    exact State.storeFrom_wf hm _ _ State.advanceExtended_mem
  | ldB d p =>
    cases hload : (s.wr p (nextBytePtr (s.rd p))).loadByte (byteOfPointer (s.rd p)) with
    | error f =>
      rw [exec_ldB_of_fault hload] at h
      cases h
      simpa using hm
    | ok r =>
      rw [exec_ldB_of_ok hload] at h
      cases h
      simpa using State.loadByte_wf (by simpa using hm) hload
  | stB d p =>
    cases hstore : (s.wr p (nextBytePtr (s.rd p))).storeByte (byteOfPointer (s.rd p))
        ((s.rd d).extractLsb' 0 8) with
    | error f =>
      rw [exec_stB_of_fault hstore] at h
      cases h
      simpa using hm
    | ok u =>
      rw [exec_stB_of_ok hstore] at h
      cases h
      simpa using State.storeByte_wf (by simpa using hm) hstore
  | ldM rb ra =>
    rw [exec_ldM] at h
    split at h <;> cases h
    exact State.transferOne_wf hm _
  | stM rb ra =>
    rw [exec_stM] at h
    split at h <;> cases h
    exact State.transferOne_wf hm _
  | div rb ra =>
    simp only [exec, execDiv] at h
    split at h
    · cases h
      split <;> simpa [State.divideFree] using hm
    · split at h <;> cases h
      · split <;> simpa [State.divideFree] using hm
      · simpa using hm
  | movTS rb sp =>
    simp only [exec, execMovTS] at h
    split at h
    · cases h
      simpa using hm
    · split at h <;> cases h
      rwa [State.advance_mem, State.writeSpecial_mem ‹_›]
  | rtI =>
    simp only [exec, execRtI] at h
    repeat' split at h
    all_goals cases h
    · simpa using hm
    all_goals exact (State.modCpu_mem s _).symm ▸ hm
  | trap num =>
    cases h
    exact (State.raiseAt_mem s _ _).symm ▸ hm
  | wait m =>
    cases h
    simpa using hm
  | tstF ra =>
    simp only [exec, execTstF] at h
    split at h <;> cases h <;> simpa using hm
  | bcc cc disp | skcc cc | shL rb amt | shR ra amt =>
    simp only [exec, execBcc, execSkcc, execShL, execShR] at h
    split at h <;> cases h <;> simpa [State.shiftFree] using hm
  | clrM bit | setM bit | tstM bit | res m | iicA | itlb | rdtx rb ra | movFS rb sp | rsm m | send rb m =>
    simp only [exec, execClrM, execSetM, execTstM, execRes, execIicA, execItlb, execRdtx, execMovFS, execRsm,
      execSend] at h
    split at h <;> cases h <;> simpa [State.dropAllFetch] using hm
  | int m | strt rb m =>
    simp only [exec, execInt, execStrt] at h
    repeat' split at h
    all_goals cases h
    all_goals simpa using hm
  | mul rb ra | mulP rb ra | mskI pos len | mskR ra len | jmpR disp | jmpA ra | jmpL ra | adPC ra | clz rb ra
  | cmp rb ra | cmpI rb imm | cmpP rb ra | ld rb imm | ldCP ra | lcc rb cc | mov rb ra | clrF ra | setF ra =>
    cases h
    simpa using hm
  | add rb ra | addI rb imm | addC rb ra | sub rb ra | subI rb imm | subC rb ra | neg rb ra =>
    cases h
    rwa [State.commitAdd_mem]
  | addP rb ra | adCP rb ra | subP rb ra | sbCP rb ra =>
    cases h
    simpa [State.commitPartial] using hm
  | dep rb ra | ins rb ra | extU rb ra | extS rb ra | dSh rb ra =>
    cases h
    rwa [State.commitField_mem]
  | and rb ra | andC rb ra | or rb ra | xOr rb ra | not rb ra =>
    cases h
    simpa [State.commitNZ] using hm

/-- Settles O12: each way through a step keeps the form. -/
theorem memoryStaysCanonical : Obligations.MemoryStaysCanonical := by
  intro s t hm h
  obtain ⟨v, rfl, hv⟩ := step_next h
  have hbegin : memoryWf s.beginStep.mem := by rwa [State.beginStep_mem]
  show memoryWf v.mem
  obtain hpre | hfetch | ⟨i, u, hdecoded, hexec⟩ := hv
  · obtain ⟨n, rfl⟩ | rfl | rfl | rfl | rfl := State.preempt_next hpre
    · rwa [State.takeInterrupt_mem]
    · exact State.continueRun_wf hbegin
    · exact hbegin
    · rwa [State.skipSlot_mem]
    · exact hbegin
  · obtain ⟨second, f, a, rfl⟩ | ⟨a, w, u, hhalf, hrest⟩ := State.fetchDecode_error_next hfetch
    · rwa [State.fetchFault_mem]
    · obtain ⟨l, c, rfl⟩ := State.fetchHalf_ok hhalf
      obtain rfl | ⟨r, rfl⟩ := hrest
      · rwa [State.raiseIllegal_mem]
      · exact (State.modCpu_mem _ _).symm ▸ hbegin
  · refine exec_memoryWf ?_ hexec
    obtain ⟨-, rfl⟩ | ⟨w, rest, hhalf, -⟩ := State.fetchDecode_ok _ _ _ hdecoded
    · exact (State.modCpu_mem _ _).symm ▸ hbegin
    · obtain ⟨l, c, rfl⟩ := State.fetchHalf_ok hhalf
      exact hbegin

end Sys2Proof.Machine
end

section
/-! PROOFS. Byte pointers (20_memory.md R82). -/

namespace Sys2Proof.Machine

theorem byteOfPointer_toNat (p : Word) :
    (byteOfPointer p).toNat = 4 * (p.toNat % 2 ^ 30) + p.toNat / 2 ^ 30 := by
  have hnumber : p.toNat / 2 ^ 30 < 4 := by omega
  rw [byteOfPointer, BitVec.toNat_append, BitVec.extractLsb'_toNat, BitVec.extractLsb'_toNat, Nat.shiftRight_zero,
    Nat.shiftRight_eq_div_pow, Nat.mod_eq_of_lt (a := p.toNat / 2 ^ 30) hnumber,
    ← Nat.shiftLeft_add_eq_or_of_lt hnumber, Nat.shiftLeft_eq, Nat.mul_comm]

theorem byteOfPointer_pointerTo (va : VAddr) : byteOfPointer (pointerTo va) = va := by
  have hword : (pointerTo va).extractLsb' 0 30 = va.extractLsb' 2 30 := BitVec.extractLsb'_append_eq_right
  have hbyte : (pointerTo va).extractLsb' 30 2 = va.extractLsb' 0 2 := BitVec.extractLsb'_append_eq_left
  rw [byteOfPointer, hword, hbyte]
  exact (BitVec.extractLsb'_append_extractLsb'_eq_extractLsb' (start₁ := 0) (len₁ := 2) rfl).trans
    BitVec.extractLsb'_eq_self

/-- Settles O35: the step is made on the byte address, which `pointerTo` keeps. -/
theorem bytePointerStep : Obligations.BytePointerStep := by
  refine ⟨byteOfPointer_toNat, fun p => ?_, byteOfPointer_pointerTo⟩
  rw [nextBytePtr, byteOfPointer_pointerTo, BitVec.toNat_add]
  rfl

end Sys2Proof.Machine
end

section
/-! SUPPORT. What a synchronous trap does: where the PU then stands, what it has saved, and what it leaves as it was
(60_exceptions.md R344, R352, R353, R357). -/

namespace Sys2Proof.Machine

/-! ### The entry of an exception -/

theorem State.enter_atEntry (s : State) (p : PuId) (n : Fin 32) (sv : HAddr × HAddr) :
    (s.enter p n sv).AtEntry p n.val := by
  obtain ⟨hpc, hnpc, hmode, -, -, hw, hs⟩ := (s.pu p).enter_entry p s.tick n sv
  unfold AtEntry
  rw [enter_pu_self]
  exact ⟨hpc, hnpc.trans (BitVec.ofNat_add ..).symm, hmode, hw, hs, rfl, rfl, rfl, rfl, rfl⟩

theorem State.raiseAt_atEntry (s : State) (n : Fin 32) (sv : HAddr × HAddr) :
    (s.raiseAt n sv).AtEntry s.turn (if s.cpu.flagT then n.val else 0x1E) := by
  have h := s.enter_atEntry s.turn (if s.cpu.flagT then n else numMachineCheck) sv
  unfold raiseAt
  cases hT : s.cpu.flagT <;> simpa [hT, numMachineCheck] using h

theorem State.raiseAt_saved {s : State} (n : Fin 32) (sv : HAddr × HAddr) (hT : s.cpu.flagT = true) :
    (s.raiseAt n sv).Saved s.turn s.cpu.sscr sv.1 sv.2 := by
  unfold Saved raiseAt
  rw [enter_pu_self]
  exact PU.enter_saves (s.pu s.turn) _ _ _ _ hT

theorem State.raise_takesTrap (s : State) (n : Fin 32) : TakesTrap s (s.raise n) n.val := by
  have hentry : (s.raise n).AtEntry s.turn _ := s.raiseAt_atEntry n (s.cpu.pc, s.cpu.npc)
  unfold TakesTrap
  cases hT : s.cpu.flagT
  · simpa [hT] using hentry
  · rw [hT] at hentry
    exact ⟨hentry, State.raiseAt_saved n _ hT⟩

theorem status_mem_entryParts (b : Fin 32) : Part.status b ∈ entryParts := by
  simp [entryParts, List.mem_finRange]

/-- A trap other than the two with an individual enable changes what its entry changes. -/
theorem unchanged_raiseAt (s : State) {n : Fin 32} (sv : HAddr × HAddr) (hcounter : n ≠ numEventCounter)
    (hexternal : n ≠ numExternal) : Unchanged s (s.raiseAt n sv) entryParts := by
  rw [s.raiseAt_eq n sv hcounter hexternal]
  obtain ⟨hregs, hmask, hrem, hprod, harg, hinter, hrestart, hflight, hended⟩ :=
    s.cpu.enter_frame s.turn s.tick (if s.cpu.flagT then n else numMachineCheck) sv
  exact unchanged_setCpu (fun r _ => PU.reg_of_regs hregs r)
    (fun b hb => absurd (status_mem_entryParts b) hb) (fun h => absurd (by simp [entryParts]) h)
    (fun _ => hmask) (fun _ => hrem) (fun _ => hprod) (fun h => absurd (by simp [entryParts]) h) (fun _ => harg)
    (fun h => absurd (by simp [entryParts]) h) (fun h => absurd (by simp [entryParts]) h)
    (fun h => absurd (by simp [entryParts]) h) (fun h => absurd (by simp [entryParts]) h)
    (fun h => absurd (by simp [entryParts]) h) (fun _ => hinter) (fun _ => hrestart)
    (fun _ d => PU.busy_of_inflight hflight d) (fun _ => hended)

@[simp] theorem State.raise_turn (s : State) (n : Fin 32) : (s.raise n).turn = s.turn := by
  unfold raise raiseAt
  rw [enter_eq]
  exact setPu_turn ..

theorem State.raise_trapArg (s : State) (n : Fin 32) : (s.raise n).cpu.trapArg = s.cpu.trapArg := by
  have hpu := s.enter_pu_self s.turn (if s.cpu.flagT then n else numMachineCheck) (s.cpu.pc, s.cpu.npc)
  show ((s.raise n).pu (s.raise n).turn).trapArg = _
  rw [raise_turn]
  exact (congrArg PU.trapArg hpu).trans (PU.enter_frame (s.pu s.turn) _ _ _ _).2.2.2.2.1

theorem unchanged_raise (s : State) {n : Fin 32} (hcounter : n ≠ numEventCounter) (hexternal : n ≠ numExternal) :
    Unchanged s (s.raise n) entryParts :=
  unchanged_raiseAt s _ hcounter hexternal

/-! ### The trap of a data access -/

@[simp] theorem State.recordArgument_turn (s : State) (ptr : Word) : (s.recordArgument ptr).turn = s.turn :=
  modCpu_turn ..

@[simp] theorem State.recordArgument_cpu (s : State) (ptr : Word) :
    (s.recordArgument ptr).cpu = { s.cpu with trapArg := if s.cpu.flagT then ptr else s.cpu.trapArg } := by
  refine (modCpu_cpu ..).trans ?_
  dsimp only
  split <;> rfl

theorem unchanged_recordArgument (s : State) (ptr : Word) : Unchanged s (s.recordArgument ptr) [.trapArg] := by
  have hset : s.recordArgument ptr = { s.setCpu (s.recordArgument ptr).cpu with
      event := (s.recordArgument ptr).event } := by
    rw [State.recordArgument, State.modCpu_cpu]
    rfl
  rw [hset, State.recordArgument_cpu]
  exact unchanged_setCpu (fun _ _ => rfl) (fun _ _ => rfl) (fun _ => ⟨rfl, rfl⟩) (fun _ => rfl) (fun _ => rfl)
    (fun _ => rfl) (fun _ => rfl) (fun h => absurd (List.mem_singleton.mpr rfl) h) (fun _ => ⟨rfl, rfl⟩)
    (fun _ => rfl) (fun _ => rfl) (fun _ => rfl) (fun _ => rfl) (fun _ => rfl) (fun _ => rfl) (fun _ _ => rfl)
    (fun _ => rfl)

/-- Which trap is taken, and what it saves, depends on the PU's status and program counters only. -/
theorem TakesTrap.of_same {s u t : State} {n : Nat} (hturn : u.turn = s.turn) (hstatus : u.cpu.sscr = s.cpu.sscr)
    (hpc : u.cpu.pc = s.cpu.pc) (hnpc : u.cpu.npc = s.cpu.npc) (h : TakesTrap u t n) : TakesTrap s t n := by
  unfold TakesTrap at h ⊢
  rw [hturn, hstatus, hpc, hnpc, show u.cpu.flagT = s.cpu.flagT by simp only [PU.flagT, hstatus]] at h
  exact h

theorem TakesTrap.atEntry {s t : State} {n : Nat} (h : TakesTrap s t n) :
    t.AtEntry s.turn (if s.cpu.flagT then n else 0x1E) := by
  unfold TakesTrap at h
  split at h
  · rw [if_pos ‹_›]
    exact h.1
  · rwa [if_neg ‹_›]

theorem State.dataFault_takesTrap (s : State) (f : MemFault) (ptr : Word) :
    TakesTrap s (s.dataFault f ptr) (dataFaultNumber f).val := by
  refine ((s.recordArgument ptr).raise_takesTrap (dataFaultNumber f)).of_same (s.recordArgument_turn ptr) ?_ ?_ ?_ <;>
    rw [recordArgument_cpu]

theorem State.dataFault_trapArg {s : State} (f : MemFault) (ptr : Word) (hT : s.cpu.flagT = true) :
    (s.dataFault f ptr).cpu.trapArg = ptr := by
  unfold dataFault
  rw [raise_trapArg, recordArgument_cpu, hT]
  rfl

theorem unchanged_dataFault (s : State) (f : MemFault) (ptr : Word) :
    Unchanged s (s.dataFault f ptr) (entryParts ++ [.trapArg]) := by
  have hcounter : dataFaultNumber f ≠ numEventCounter := by cases f <;> decide
  have hexternal : dataFaultNumber f ≠ numExternal := by cases f <;> decide
  exact ((unchanged_recordArgument s ptr).trans (s.recordArgument_turn ptr)
    (unchanged_raise _ hcounter hexternal)).mono (by simp)

theorem faultsWith_of_dataFault {i : Instr} {s : State} {f : MemFault} {ptr : Word}
    (h : exec i s = .next (s.dataFault f ptr)) : FaultsWith i s (dataFaultNumber f).val ptr [] :=
  ⟨_, h, s.dataFault_takesTrap f ptr, State.dataFault_trapArg f ptr, (unchanged_dataFault s f ptr).mono (by simp)⟩

end Sys2Proof.Machine
end

section
/-! PROOFS. Word accesses of every addressing form (40_load_store_move.md R166 to R179), what ends them, and their
faults (20_memory.md R96, R101). -/

namespace Sys2Proof.Machine

/-! ### What ends a word access -/

/-- What instruction `i`, begun in `s`, does once its word access has led to `t`: the program counters advance,
for a direct access below 8 after its semaphore is written. -/
def State.endAccess (s : State) (i : Instr) (t : State) : State :=
  match i with
  | .ldWD _ disp => t.endDirect s.cpu.flagCN disp false
  | .stWD _ disp => t.endDirect s.cpu.flagCN disp true
  | .ldWE _ _ _ | .stWE _ _ _ => t.advanceExtended
  | _ => t.advance

theorem WordAccess.exec_load {i : Instr} {s : State} {rb : Reg} {wa : WAddr} (h : WordAccess i s .load rb wa) :
    exec i s = .next (s.loadInto rb wa (s.endAccess i)) := by
  obtain ⟨base, disp, rfl, ⟨-, rfl⟩ | ⟨hk, -⟩⟩ | ⟨ra, rfl, ⟨-, rfl⟩ | ⟨hk, -⟩⟩ |
    ⟨ra, disp, hplaced, rfl, ⟨-, rfl⟩ | ⟨hk, -⟩⟩ | ⟨disp, rfl, ⟨-, rfl, hsem⟩ | ⟨hk, -⟩⟩ := h
  · exact exec_ldWB ..
  · cases hk
  · exact exec_ldWR ..
  · cases hk
  · exact (exec_ldWE ..).trans (if_neg (by simp [hplaced]))
  · cases hk
  · refine (exec_ldWD ..).trans (if_neg fun ⟨hle, hclear⟩ => ?_)
    rw [hsem hle] at hclear
    cases hclear
  · cases hk

theorem WordAccess.exec_store {i : Instr} {s : State} {rb : Reg} {wa : WAddr} (h : WordAccess i s .store rb wa) :
    exec i s = .next (s.storeFrom wa (s.rd rb) (s.endAccess i)) := by
  obtain ⟨base, disp, rfl, ⟨hk, -⟩ | ⟨-, rfl⟩⟩ | ⟨ra, rfl, ⟨hk, -⟩ | ⟨-, rfl⟩⟩ |
    ⟨ra, disp, hplaced, rfl, ⟨hk, -⟩ | ⟨-, rfl⟩⟩ | ⟨disp, rfl, ⟨hk, -⟩ | ⟨-, rfl, hsem⟩⟩ := h
  · cases hk
  · exact exec_stWB ..
  · cases hk
  · exact exec_stWR ..
  · cases hk
  · exact (exec_stWE ..).trans (if_neg (by simp [hplaced]))
  · cases hk
  · refine (exec_stWD ..).trans (if_neg fun ⟨hle, hset⟩ => ?_)
    rw [hsem hle] at hset
    cases hset

theorem WordAccess.kind {i : Instr} {s : State} {k : AccessKind} {rb : Reg} {wa : WAddr}
    (h : WordAccess i s k rb wa) : k = .load ∨ k = .store := by
  obtain ⟨_, _, -, ⟨rfl, -⟩ | ⟨rfl, -⟩⟩ | ⟨_, -, ⟨rfl, -⟩ | ⟨rfl, -⟩⟩ | ⟨_, _, -, -, ⟨rfl, -⟩ | ⟨rfl, -⟩⟩ |
    ⟨_, -, ⟨rfl, -⟩ | ⟨rfl, -⟩⟩ := h <;> simp

/-! ### A word access whose translation fails -/

theorem State.loadWord_of_error {s : State} {wa : WAddr} {f : MemFault}
    (h : s.translate (byteOfWord wa) .load s.cpu.flagU = .error f) : s.loadWord wa = .error f := by
  simp [loadWord, h]

theorem State.storeWord_of_error {s : State} {wa : WAddr} {f : MemFault} (v : Word)
    (h : s.translate (byteOfWord wa) .store s.cpu.flagU = .error f) : s.storeWord wa v = .error f := by
  simp [storeWord, h]

theorem zeroExtend30_eq (a : BitVec 30) : zeroExtend30 a = BitVec.ofNat 32 a.toNat := by
  apply BitVec.eq_of_toNat_eq
  rw [zeroExtend30, BitVec.toNat_append, BitVec.toNat_ofNat, BitVec.toNat_ofNat,
    Nat.mod_eq_of_lt (a := a.toNat) (by omega)]
  simp

theorem WordAccess.faultsWith {i : Instr} {s : State} {k : AccessKind} {rb : Reg} {wa : WAddr} {f : MemFault}
    (h : WordAccess i s k rb wa) (hf : s.translate (byteOfWord wa) k s.cpu.flagU = .error f) :
    FaultsWith i s (dataFaultNumber f).val (BitVec.ofNat 32 wa.toNat) [] := by
  refine faultsWith_of_dataFault ?_
  rw [← zeroExtend30_eq]
  obtain rfl | rfl := h.kind
  · rw [h.exec_load, State.loadInto, State.loadWord_of_error hf]
  · rw [h.exec_store, State.storeFrom, State.storeWord_of_error _ hf]

theorem State.translate_of_denied {s : State} {va : VAddr} {k : AccessKind} {user : Bool} {d : PageDesc}
    (hpage : s.pageOf va = some d) (h : pageDenies d k user = true ∨
      d.message = false ∧ s.tagDenies (pageAddress d va) k user = true) :
    s.translate va k user = .error .accessFault := by
  obtain hdeny | ⟨hhere, htag⟩ := h
  · simp [translate, hpage, hdeny]
  · by_cases hdeny : pageDenies d k user = true <;> simp [translate, hpage, hdeny, hhere, htag]

theorem State.DataFaultIs.translate {s : State} {va : VAddr} {k : AccessKind} {n : Nat}
    (h : s.DataFaultIs va k n) (hk : k = .load ∨ k = .store) :
    ∃ f, n = (dataFaultNumber f).val ∧ s.translate va k s.cpu.flagU = .error f := by
  obtain ⟨hpage, rfl⟩ | ⟨d, hpage, rfl, hdeny⟩ := h
  · exact ⟨.pageFault, rfl, by simp [State.translate, hpage]⟩
  · refine ⟨.accessFault, rfl, translate_of_denied hpage ?_⟩
    obtain ⟨hu, hd⟩ | hx | ⟨rfl, hr⟩ | ⟨hhere, hu, e, he, hd⟩ := hdeny
    · exact .inl (by simp [pageDenies, hu, hd])
    · exact .inl (by obtain rfl | rfl := hk <;> simp [pageDenies, hx])
    · exact .inl (by simp [pageDenies, hr])
    · exact .inr ⟨hhere, by obtain rfl | rfl := hk <;> simp [tagDenies, hu, he, hd]⟩

/-- Settles O40: the access's translation fails before anything else is done. -/
theorem wordFaults : Obligations.WordFaults := by
  intro s rb ra base disp n i wa k hform hfault
  have haccess : WordAccess i s k rb wa := by
    obtain ⟨rfl, ⟨rfl, rfl⟩ | ⟨rfl, rfl⟩ | ⟨rfl, hplaced, rfl⟩ | ⟨rfl, rfl, hsem⟩⟩ |
      ⟨rfl, ⟨rfl, rfl⟩ | ⟨rfl, rfl⟩ | ⟨rfl, hplaced, rfl⟩ | ⟨rfl, rfl, hsem⟩⟩ := hform
    · exact .inl ⟨base, disp, rfl, .inl ⟨rfl, rfl⟩⟩
    · exact .inr (.inl ⟨ra, rfl, .inl ⟨rfl, rfl⟩⟩)
    · exact .inr (.inr (.inl ⟨ra, disp, hplaced, rfl, .inl ⟨rfl, rfl⟩⟩))
    · exact .inr (.inr (.inr ⟨disp, rfl, .inl ⟨rfl, rfl, hsem⟩⟩))
    · exact .inl ⟨base, disp, rfl, .inr ⟨rfl, rfl⟩⟩
    · exact .inr (.inl ⟨ra, rfl, .inr ⟨rfl, rfl⟩⟩)
    · exact .inr (.inr (.inl ⟨ra, disp, hplaced, rfl, .inr ⟨rfl, rfl⟩⟩))
    · exact .inr (.inr (.inr ⟨disp, rfl, .inr ⟨rfl, rfl, hsem⟩⟩))
  obtain ⟨f, rfl, htranslate⟩ := hfault.translate haccess.kind
  exact haccess.faultsWith htranslate

end Sys2Proof.Machine
end

section
/-! SUPPORT. The data cache under an access (20_memory.md R101, 44_cache_control.md R300): where lines lie, which entry
an access uses and what it leaves there, and what Main Memory holds afterwards. -/

namespace Sys2Proof.Machine

/-! ### Where lines lie -/

theorem State.lineBytes_cases (s : State) :
    s.lineBytes = 4 ∨ s.lineBytes = 8 ∨ s.lineBytes = 16 ∨ s.lineBytes = 32 ∨ s.lineBytes = 64 := by
  unfold lineBytes
  obtain ⟨l, hl⟩ := s.params.lineLog
  interval_cases l <;> simp

theorem State.lineBase_toNat (s : State) (pa : PAddr) :
    (s.lineBase pa).toNat = pa.toNat / s.lineBytes * s.lineBytes := by
  obtain ⟨k, hk, hbytes⟩ : ∃ k, k < 32 ∧ s.lineBytes = 2 ^ k := by
    refine ⟨s.params.lineLog.val + 2, by omega, ?_⟩
    rw [lineBytes, Nat.pow_add, Nat.mul_comm]
  have hshift : s.lineBase pa = (pa >>> k) <<< k := by
    apply BitVec.eq_of_getLsbD_eq
    intro i hi
    rw [lineBase, hbytes, BitVec.getLsbD_and, BitVec.getLsbD_not, BitVec.getLsbD_ofNat, Nat.testBit_two_pow_sub_one,
      BitVec.getLsbD_shiftLeft, BitVec.getLsbD_ushiftRight]
    by_cases h : i < k
    · simp [hi, h]
    · simp [hi, h, show k + (i - k) = i by omega]
  have hle : pa.toNat / 2 ^ k * 2 ^ k ≤ pa.toNat := Nat.div_mul_le_self ..
  rw [hshift, hbytes, BitVec.toNat_shiftLeft, BitVec.toNat_ushiftRight, Nat.shiftRight_eq_div_pow, Nat.shiftLeft_eq,
    Nat.mod_eq_of_lt (by omega)]

theorem setIndex_val (pa : PAddr) : (setIndex pa).val = pa.toNat / 64 % 16 := by
  show (pa.extractLsb' 6 4).toNat = _
  rw [BitVec.extractLsb'_toNat, Nat.shiftRight_eq_div_pow]

@[simp] theorem State.setIndex_lineBase (s : State) (pa : PAddr) : setIndex (s.lineBase pa) = setIndex pa := by
  apply Fin.ext
  rw [setIndex_val, setIndex_val, lineBase_toNat]
  obtain h | h | h | h | h := s.lineBytes_cases <;> rw [h] <;> omega

@[simp] theorem State.lineBase_lineBase (s : State) (pa : PAddr) : s.lineBase (s.lineBase pa) = s.lineBase pa := by
  apply BitVec.eq_of_toNat_eq
  rw [lineBase_toNat, lineBase_toNat]
  obtain h | h | h | h | h := s.lineBytes_cases <;> rw [h] <;> omega

theorem State.lineBase_congr {s t : State} (h : t.params = s.params) (pa : PAddr) :
    t.lineBase pa = s.lineBase pa := by
  simp only [lineBase, lineBytes, h]

/-- Two lines share no byte. -/
theorem State.not_inLine_of_ne {s : State} {b : PAddr} {pa : PAddr} {k : Nat} (hb : s.lineBase b = b)
    (hne : b ≠ s.lineBase pa) (hk : k < s.lineBytes) : ¬s.inLine pa (b.toNat + k) := by
  intro ⟨hlow, hhigh⟩
  refine hne (BitVec.eq_of_toNat_eq ?_)
  have hbase := congrArg BitVec.toNat hb
  rw [lineBase_toNat] at hbase hlow hhigh ⊢
  obtain h | h | h | h | h := s.lineBytes_cases <;> rw [h] at hbase hlow hhigh hk ⊢ <;> omega

/-- Addresses with the same distance below a line's end are in the line. -/
theorem State.lineBase_add {s : State} {pa : PAddr} {k : Nat}
    (hk : pa.toNat % s.lineBytes + k < s.lineBytes) : s.lineBase (pa + BitVec.ofNat 32 k) = s.lineBase pa := by
  apply BitVec.eq_of_toNat_eq
  have hlt := pa.isLt
  rw [lineBase_toNat, lineBase_toNat, BitVec.toNat_add, BitVec.toNat_ofNat]
  obtain h | h | h | h | h := s.lineBytes_cases <;> rw [h] at hk ⊢ <;> omega

/-- The bytes of an access that ends below a line's end are in the line. -/
theorem State.inLine_add {s : State} {pa : PAddr} {a n : Nat} (hn : pa.toNat % s.lineBytes + n ≤ s.lineBytes)
    (hlow : pa.toNat ≤ a) (hhigh : a < pa.toNat + n) : s.inLine pa a := by
  unfold inLine
  rw [lineBase_toNat]
  obtain h | h | h | h | h := s.lineBytes_cases <;> rw [h] at hn ⊢ <;> omega

theorem pageAddress_mod (d : PageDesc) (va : VAddr) : (pageAddress d va).toNat % 64 = va.toNat % 64 := by
  have hbits : (pageAddress d va).extractLsb' 0 6 = va.extractLsb' 0 6 := by
    apply BitVec.eq_of_getLsbD_eq
    intro i hi
    have hlow : i < pageShift d := by unfold pageShift; omega
    simp [pageAddress, hi, hlow, show i < 32 by omega, -BitVec.getLsbD_eq_getElem, BitVec.getLsbD_shiftLeft]
  have h := congrArg BitVec.toNat hbits
  simpa [BitVec.extractLsb'_toNat] using h

theorem byteOfWord_toNat (wa : WAddr) : (byteOfWord wa).toNat = 4 * wa.toNat := by
  rw [byteOfWord, BitVec.toNat_append, BitVec.toNat_ofNat, Nat.zero_mod, Nat.or_zero, Nat.shiftLeft_eq]
  omega

/-- A word lies within its line. -/
theorem State.word_inside (s : State) (d : PageDesc) (wa : WAddr) :
    (pageAddress d (byteOfWord wa)).toNat % s.lineBytes + 4 ≤ s.lineBytes := by
  have hmod := pageAddress_mod d (byteOfWord wa)
  rw [byteOfWord_toNat] at hmod
  obtain h | h | h | h | h := s.lineBytes_cases <;> rw [h] <;> omega

/-! ### Sets -/

@[simp] theorem CacheSet.way_put_self (c : CacheSet) (w : Fin 4) (e : CacheLine) (o : List (Fin 4)) :
    (c.put w e o).way w = e := by
  simp [put, way]

theorem CacheSet.way_put_other (c : CacheSet) {v w : Fin 4} (e : CacheLine) (o : List (Fin 4)) (h : v ≠ w) :
    (c.put w e o).way v = c.way v := by
  simp only [put, way]
  exact Vector.getElem_set_ne _ _ fun hw => h (Fin.ext hw.symm)

@[simp] theorem CacheSet.put_order (c : CacheSet) (w : Fin 4) (e : CacheLine) (o : List (Fin 4)) :
    (c.put w e o).order = o := rfl

theorem State.cacheSet_putSet {s t : State} {i : Fin 16} {x : CacheSet} (h : t.dcache = putSet s.dcache i x)
    (j : Fin 16) : t.cacheSet j = if j = i then x else s.cacheSet j := by
  unfold cacheSet
  rw [h]
  unfold putSet
  rw [Vector.getElem_set]
  simp only [Fin.ext_iff, eq_comm]

theorem CacheSet.findWay_some {c : CacheSet} {b : PAddr} {w : Fin 4} (h : c.findWay b = some w) :
    (c.way w).valid = true ∧ (c.way w).base = b := by
  simpa using List.find?_some h

theorem CacheSet.findWay_none {c : CacheSet} {b : PAddr} (h : c.findWay b = none) (w : Fin 4)
    (hv : (c.way w).valid = true) : (c.way w).base ≠ b := by
  have hw : w ∈ ([0, 1, 2, 3] : List (Fin 4)) := by fin_cases w <;> simp
  simpa [hv] using List.find?_eq_none.mp h w hw

theorem CacheSet.findWay_eq_none {c : CacheSet} {b : PAddr} (h : ∀ w, (c.way w).valid = true → (c.way w).base ≠ b) :
    c.findWay b = none := by
  refine List.find?_eq_none.mpr fun w _ => ?_
  simpa using h w

theorem find?_of_extends {α : Type} {p q : α → Bool} {l : List α} {w : α} (hw : w ∈ l) (hq : q w = true)
    (hother : ∀ v, v ≠ w → q v = p v) (hfind : ∀ v, l.find? p = some v → v = w) : l.find? q = some w := by
  induction l with
  | nil => cases hw
  | cons x l ih =>
    by_cases hx : x = w
    · rw [hx, List.find?_cons_of_pos hq]
    · have hp : ¬p x = true := fun hp => hx (hfind x (List.find?_cons_of_pos hp))
      rw [List.find?_cons_of_neg (by rwa [hother x hx])]
      rw [List.find?_cons_of_neg hp] at hfind
      exact ih ((List.mem_cons.mp hw).resolve_left (Ne.symm hx)) hfind

/-- The line that an entry receives is found there. -/
theorem CacheSet.findWay_put {c : CacheSet} {b : PAddr} {w : Fin 4} {e : CacheLine} (o : List (Fin 4))
    (hv : e.valid = true) (hb : e.base = b) (h : ∀ v, c.findWay b = some v → v = w) :
    (c.put w e o).findWay b = some w := by
  refine find?_of_extends (by fin_cases w <;> simp) (by simp [hv, hb]) (fun v hne => ?_) h
  rw [way_put_other c e o hne]

/-- In a well-formed set a line is found in the entry that holds it. -/
theorem CacheSet.Wf.findWay {s : State} {i : Fin 16} {c : CacheSet} (h : c.Wf s i) {w : Fin 4}
    (hv : (c.way w).valid = true) : c.findWay (c.way w).base = some w := by
  cases hfind : c.findWay (c.way w).base with
  | none => exact absurd rfl (findWay_none hfind w hv)
  | some v =>
    obtain ⟨hvalid, hbase⟩ := findWay_some hfind
    rw [h.2.2 v w hvalid hv hbase]

/-! ### The entry that an access uses -/

/-- The entry that an access at `pa` uses: its line's own, or else the least recently used (R300). -/
def State.usedWay (s : State) (pa : PAddr) : Fin 4 :=
  ((s.cacheSet (setIndex pa)).findWay (s.lineBase pa)).getD (s.cacheSet (setIndex pa)).lru

/-- What an access at `pa` leaves in that entry. -/
def State.usedEntry (s : State) (pa : PAddr) (d : PageDesc) (store : Bool) : CacheLine :=
  match (s.cacheSet (setIndex pa)).findWay (s.lineBase pa) with
  | some w => ((s.cacheSet (setIndex pa)).way w).onHit pa store (s.seenLine pa)
  | none => CacheLine.filled d (s.lineBase pa) store
      (readBytes (s.memoryAfter pa) (s.lineBase pa).toNat s.lineBytes)

section
variable {s : State} {pa : PAddr}

theorem State.usedWay_of_hit {w : Fin 4} (h : (s.cacheSet (setIndex pa)).findWay (s.lineBase pa) = some w) :
    s.usedWay pa = w := by
  simp [usedWay, h]

theorem State.usedWay_of_miss (h : (s.cacheSet (setIndex pa)).findWay (s.lineBase pa) = none) :
    s.usedWay pa = (s.cacheSet (setIndex pa)).lru := by
  simp [usedWay, h]

theorem State.usedEntry_of_hit (d : PageDesc) (store : Bool) {w : Fin 4}
    (h : (s.cacheSet (setIndex pa)).findWay (s.lineBase pa) = some w) :
    s.usedEntry pa d store = ((s.cacheSet (setIndex pa)).way w).onHit pa store (s.seenLine pa) := by
  simp [usedEntry, h]

theorem State.usedEntry_of_miss (d : PageDesc) (store : Bool)
    (h : (s.cacheSet (setIndex pa)).findWay (s.lineBase pa) = none) :
    s.usedEntry pa d store = CacheLine.filled d (s.lineBase pa) store
      (readBytes (s.memoryAfter pa) (s.lineBase pa).toNat s.lineBytes) := by
  simp [usedEntry, h]

theorem State.victim_of_miss (h : (s.cacheSet (setIndex pa)).findWay (s.lineBase pa) = none) :
    s.victim pa = some ((s.cacheSet (setIndex pa)).way (s.cacheSet (setIndex pa)).lru) := by
  simp [victim, h]

theorem State.memoryAfter_of_hit {w : Fin 4} (h : (s.cacheSet (setIndex pa)).findWay (s.lineBase pa) = some w) :
    s.memoryAfter pa = s.mem := by
  simp [memoryAfter, victim, h]

theorem State.memoryAfter_of_miss (h : (s.cacheSet (setIndex pa)).findWay (s.lineBase pa) = none) :
    s.memoryAfter pa = evictLine s.mem ((s.cacheSet (setIndex pa)).way (s.cacheSet (setIndex pa)).lru) := by
  simp [memoryAfter, victim, h]

end

theorem State.usedEntry_line (s : State) (pa : PAddr) (d : PageDesc) (store : Bool) :
    (s.usedEntry pa d store).valid = true ∧ (s.usedEntry pa d store).base = s.lineBase pa := by
  cases h : (s.cacheSet (setIndex pa)).findWay (s.lineBase pa) with
  | none => simp [usedEntry_of_miss d store h, CacheLine.filled]
  | some w => simpa [usedEntry_of_hit d store h] using CacheSet.findWay_some h

theorem State.useLine_dcache (s : State) (pa : PAddr) (d : PageDesc) (store : Bool) :
    (s.useLine pa d store).dcache = putSet s.dcache (setIndex pa)
      ((s.cacheSet (setIndex pa)).put (s.usedWay pa) (s.usedEntry pa d store)
        (useWay (s.cacheSet (setIndex pa)).order (s.usedWay pa))) := by
  cases h : (s.cacheSet (setIndex pa)).findWay (s.lineBase pa) with
  | none => simp [useLine, h, usedWay_of_miss h, usedEntry_of_miss d store h, memoryAfter_of_miss h]
  | some w => simp [useLine, h, usedWay_of_hit h, usedEntry_of_hit d store h, seenLine]

/-! ### A replaced entry -/

theorem readByte_evictLine_outside {m : Memory} (hm : memoryWf m) {e : CacheLine} {n a : Nat}
    (hlen : ∀ bytes, e.backing = some bytes → bytes.length = n)
    (ha : ¬(e.base.toNat ≤ a ∧ a < e.base.toNat + n)) : readByte (evictLine m e) a = readByte m a := by
  refine readByte_evictLine hm e a ?_
  rintro ⟨bytes, -, hbacking, hlow, hhigh, -⟩
  rw [hlen bytes hbacking] at hhigh
  exact ha ⟨hlow, hhigh⟩

/-- A modified entry that is replaced: of its line memory keeps what something stored, and shows again what Main
Memory held of the other words. -/
theorem readByte_evictLine_dirty {m : Memory} (hm : memoryWf m) {e : CacheLine} {kept : List Byte}
    (hv : e.valid = true) (hd : e.dirty = true) (hkept : e.backing = some kept) {k : Nat} (hk : k < kept.length) :
    readByte (evictLine m e) (e.base.toNat + k) =
      if e.unstored.getLsbD (k / 4) then kept.getD k 0 else readByte m (e.base.toNat + k) := by
  by_cases hu : e.unstored = 0
  · simp [evictLine, hv, CacheLine.writtenBack_of_stored m hd hu, restoreLine, hu]
  · have hback : e.writtenBack m = some (writeBackBytes m e.base.toNat e.unstored kept) := by
      rw [CacheLine.writtenBack, if_pos hd, if_neg hu, hkept]
      rfl
    rw [evictLine, if_pos hv, hback, restoreLine, readByte_writeBytes hm, writeBackBytes_length,
      if_pos ⟨by omega, by omega⟩, Nat.add_sub_cancel_left, writeBackBytes_getD hk]

/-- In a well-formed cache Main Memory holds of a cached line what its entry keeps of it. -/
theorem State.mainLine_of_way {s : State} (h : s.CacheWf) {i : Fin 16} {w : Fin 4}
    (hv : ((s.cacheSet i).way w).valid = true) :
    s.mainLine ((s.cacheSet i).way w).base = ((s.cacheSet i).way w).backing.getD
      (readBytes s.mem ((s.cacheSet i).way w).base.toNat s.lineBytes) := by
  have hindex := (((h i).2.1 w).1 hv).2
  have hfind := (h i).findWay hv
  simp only [mainLine, hindex, hfind]

theorem State.mainLine_of_find {s : State} {b : PAddr} {w : Fin 4}
    (h : (s.cacheSet (setIndex b)).findWay b = some w) :
    s.mainLine b = ((s.cacheSet (setIndex b)).way w).backing.getD (readBytes s.mem b.toNat s.lineBytes) := by
  simp [mainLine, h]

theorem State.mainLine_of_none {s : State} {b : PAddr} (h : (s.cacheSet (setIndex b)).findWay b = none) :
    s.mainLine b = readBytes s.mem b.toNat s.lineBytes := by
  simp [mainLine, h]

theorem readBytes_congr {m m' : Memory} {a n : Nat} (h : ∀ k < n, readByte m (a + k) = readByte m' (a + k)) :
    readBytes m a n = readBytes m' a n :=
  List.map_congr_left fun k hk => h k (List.mem_range.mp hk)

/-! ### After an access -/

/-- `t` is a state after an access at `pa` in page `d`: the data cache is as the access leaves it, and outside the
line memory is as a replaced line leaves it. -/
structure AccessDone (s t : State) (pa : PAddr) (d : PageDesc) (store : Bool) : Prop where
  params : t.params = s.params
  dcache : t.dcache = (s.useLine pa d store).dcache
  mem : ∀ a, ¬s.inLine pa a → readByte t.mem a = readByte (s.memoryAfter pa) a

namespace AccessDone

variable {s t : State} {pa : PAddr} {d : PageDesc} {store : Bool}

theorem lineBase (h : AccessDone s t pa d store) (b : PAddr) : t.lineBase b = s.lineBase b :=
  State.lineBase_congr h.params b

theorem cacheSet_self (h : AccessDone s t pa d store) :
    t.cacheSet (setIndex pa) = (s.cacheSet (setIndex pa)).put (s.usedWay pa) (s.usedEntry pa d store)
      (useWay (s.cacheSet (setIndex pa)).order (s.usedWay pa)) := by
  rw [State.cacheSet_putSet (h.dcache.trans (s.useLine_dcache pa d store)), if_pos rfl]

theorem cacheSet_other (h : AccessDone s t pa d store) {j : Fin 16} (hj : j ≠ setIndex pa) :
    t.cacheSet j = s.cacheSet j := by
  rw [State.cacheSet_putSet (h.dcache.trans (s.useLine_dcache pa d store)), if_neg hj]

/-- The line is then in the entry used. -/
theorem findWay (h : AccessDone s t pa d store) :
    (t.cacheSet (setIndex pa)).findWay (s.lineBase pa) = some (s.usedWay pa) := by
  obtain ⟨hvalid, hbase⟩ := s.usedEntry_line pa d store
  rw [h.cacheSet_self]
  exact CacheSet.findWay_put _ hvalid hbase fun v hv => (State.usedWay_of_hit hv).symm

theorem way_used (h : AccessDone s t pa d store) :
    (t.cacheSet (setIndex pa)).way (s.usedWay pa) = s.usedEntry pa d store := by
  rw [h.cacheSet_self, CacheSet.way_put_self]

/-- A replaced line is then in no entry, and Main Memory has received what was stored in it (R290, R300). -/
theorem mainLine_victim (h : AccessDone s t pa d store) (hm : memoryWf s.mem) (hc : s.CacheWf) {e : CacheLine}
    (he : s.victim pa = some e) (hv : e.valid = true) (hd : e.dirty = true) :
    t.mainLine e.base = s.writtenLine e := by
  have hmiss : (s.cacheSet (setIndex pa)).findWay (s.lineBase pa) = none := by
    cases hfind : (s.cacheSet (setIndex pa)).findWay (s.lineBase pa) with
    | none => rfl
    | some w => simp [State.victim, hfind] at he
  have hset := hc (setIndex pa)
  rw [State.victim_of_miss hmiss] at he
  obtain rfl := Option.some.inj he
  obtain ⟨hline, hlen, hkeeps⟩ := hset.2.1 (s.cacheSet (setIndex pa)).lru
  obtain ⟨hbase, hindex⟩ := hline hv
  obtain ⟨kept, hkept⟩ := Option.isSome_iff_exists.mp (hkeeps (.inl hd))
  have hne := CacheSet.findWay_none hmiss _ hv
  have hgone : (t.cacheSet (setIndex ((s.cacheSet (setIndex pa)).way (s.cacheSet (setIndex pa)).lru).base)).findWay
      ((s.cacheSet (setIndex pa)).way (s.cacheSet (setIndex pa)).lru).base = none := by
    rw [hindex]
    refine CacheSet.findWay_eq_none fun w hw => ?_
    rw [h.cacheSet_self, State.usedWay_of_miss hmiss] at hw ⊢
    by_cases heq : w = (s.cacheSet (setIndex pa)).lru
    · rw [heq, CacheSet.way_put_self, (s.usedEntry_line pa d store).2]
      exact hne.symm
    · rw [CacheSet.way_put_other _ _ _ heq] at hw ⊢
      exact fun hsame => heq (hset.2.2 _ _ hw hv hsame)
  rw [State.mainLine_of_none hgone, State.writtenLine, State.mainLine_of_way hc hv, hkept, State.lineBytes, h.params]
  refine List.map_congr_left fun k hk => ?_
  have hk : k < s.lineBytes := List.mem_range.mp hk
  rw [h.mem _ (State.not_inLine_of_ne hbase hne hk), State.memoryAfter_of_miss hmiss,
    readByte_evictLine_dirty hm hv hd hkept (by rwa [hlen kept hkept])]
  rfl

theorem cacheAfter (h : AccessDone s t pa d store) (hm : memoryWf s.mem) : CacheAfter s t pa d store := by
  refine ⟨s.usedWay pa, h.findWay, fun v hv => ?_, fun hmiss => ?_, ?_, fun v hv => ?_,
    fun j hj => h.cacheSet_other hj, fun hc e he hvalid hdirty => h.mainLine_victim hm hc he hvalid hdirty⟩
  · rw [h.way_used, State.usedEntry_of_hit d store hv, State.usedWay_of_hit hv]
    obtain ⟨-, hbase⟩ := CacheSet.findWay_some hv
    refine ⟨rfl, CacheLine.onHit_dirty .., ?_, ?_, fun k hk => ?_⟩
    · cases store <;> rfl
    · cases store <;> rfl
    · cases store with
      | false => simp
      | true =>
        rw [Bool.true_and, ← hbase]
        exact CacheLine.unstoredAfter_getLsbD _ pa hk
  · rw [h.way_used, State.usedEntry_of_miss d store hmiss, State.usedWay_of_miss hmiss]
    exact ⟨rfl, rfl, rfl, rfl, rfl⟩
  · rw [h.cacheSet_self]
    rfl
  · rw [h.cacheSet_self, CacheSet.way_put_other _ _ _ hv]

end AccessDone

/-- Bringing a line in leaves what memory shows of it. -/
theorem State.readByte_memoryAfter_line {s : State} (hm : memoryWf s.mem) (hc : s.CacheWf) {pa : PAddr} {a : Nat}
    (ha : s.inLine pa a) : readByte (s.memoryAfter pa) a = readByte s.mem a := by
  cases hfind : (s.cacheSet (setIndex pa)).findWay (s.lineBase pa) with
  | some w => rw [memoryAfter_of_hit hfind]
  | none =>
    rw [memoryAfter_of_miss hfind]
    obtain ⟨hline, hlen, -⟩ := (hc (setIndex pa)).2.1 (s.cacheSet (setIndex pa)).lru
    by_cases hv : ((s.cacheSet (setIndex pa)).way (s.cacheSet (setIndex pa)).lru).valid = true
    · refine readByte_evictLine_outside hm hlen fun ⟨hlow, hhigh⟩ => ?_
      obtain ⟨k, rfl⟩ := Nat.exists_eq_add_of_le hlow
      exact not_inLine_of_ne (hline hv).1 (CacheSet.findWay_none hfind _ hv) (by omega) ha
    · rw [evictLine, if_neg hv]

/-- A store changes nothing that Main Memory holds of its line. -/
theorem AccessDone.mainLine_self {s t : State} {pa : PAddr} {d : PageDesc} (h : AccessDone s t pa d true)
    (hm : memoryWf s.mem) (hc : s.CacheWf) : t.mainLine (s.lineBase pa) = s.mainLine (s.lineBase pa) := by
  have hthere := h.findWay
  rw [← s.setIndex_lineBase pa] at hthere
  rw [State.mainLine_of_find hthere, s.setIndex_lineBase, h.way_used]
  cases hfind : (s.cacheSet (setIndex pa)).findWay (s.lineBase pa) with
  | some w =>
    rw [State.usedEntry_of_hit d true hfind]
    rw [← s.setIndex_lineBase pa] at hfind
    rw [State.mainLine_of_find hfind, s.setIndex_lineBase]
    rfl
  | none =>
    rw [State.usedEntry_of_miss d true hfind]
    rw [← s.setIndex_lineBase pa] at hfind
    rw [State.mainLine_of_none hfind]
    exact readBytes_congr fun k hk => State.readByte_memoryAfter_line hm hc ⟨by omega, by omega⟩

end Sys2Proof.Machine
end

section
/-! SUPPORT. Word loads and stores of this node (20_memory.md R85, R86): the state after one, its frame, and what a
fetch may return after a store (R100). -/

namespace Sys2Proof.Machine

/-! ### Frames of an access -/

theorem unchanged_memory {s : State} {l : List TlbEntry} {c : Vector CacheSet 16} {m : Memory} {q : List StoredHalf}
    {ps : List Part} (htlb : Part.tlb ∉ ps → l = s.tlb) (hcache : Part.dataCache ∉ ps → c = s.dcache)
    (hmem : Part.memory ∉ ps → ∀ a, readByte m a = readByte s.mem a) (hstored : Part.stored ∉ ps → q = s.stored) :
    Unchanged s { s with tlb := l, dcache := c, mem := m, stored := q } ps := by
  have hpu : ∀ p, ({ s with tlb := l, dcache := c, mem := m, stored := q } : State).pu p = s.pu p := by
    intro p
    cases p <;> rfl
  have hcpu : ({ s with tlb := l, dcache := c, mem := m, stored := q } : State).cpu = s.cpu := hpu s.turn
  intro p hp
  cases p with
  | tlb => exact htlb hp
  | dataCache => exact hcache hp
  | memory => exact hmem hp
  | stored => exact hstored hp
  | otherPus => exact fun q _ => hpu q
  | instCache | test | window | semaphores | eventCounters | eventConfig | interruptArgument | pageTable | pending
  | model => simp [Part.Same]
  | reg r | status b | counters | mask | remainder | product | statusSave | trapArg | queue | returnMark
  | waitSem | run | waitMask | pendInter | pendRestart | intervals | waitEnded => simp [Part.Same, hcpu]

theorem unchanged_fillTlb (s : State) (va : VAddr) : Unchanged s (s.fillTlb va) [.tlb] := by
  obtain ⟨l, hl⟩ := s.fillTlb_eq va
  rw [hl]
  exact unchanged_memory (fun h => absurd (List.mem_singleton.mpr rfl) h) (fun _ => rfl) (fun _ _ => rfl)
    (fun _ => rfl)

@[simp] theorem State.fillTlb_cpu (s : State) (va : VAddr) : (s.fillTlb va).cpu = s.cpu := by
  obtain ⟨l, hl⟩ := s.fillTlb_eq va
  rw [hl, State.cpu_with_tlb]

@[simp] theorem State.fillTlb_turn (s : State) (va : VAddr) : (s.fillTlb va).turn = s.turn := by
  obtain ⟨l, hl⟩ := s.fillTlb_eq va
  rw [hl]

/-- After the translation of a present page's address the TLB holds the page. -/
theorem State.tlbFind_fillTlb {s : State} {va : VAddr} {d : PageDesc} (h : s.pageOf va = some d) :
    tlbFind (s.fillTlb va).tlb va = some d := by
  cases hfind : tlbFind s.tlb va with
  | some d' =>
    simp only [pageOf, hfind] at h
    simp [fillTlb, hfind, h]
  | none =>
    simp only [pageOf, hfind] at h
    simp only [fillTlb, hfind, h]
    simp [tlbFind, TlbEntry.covers]

theorem State.pageOf_of_tlbFind {s : State} {va : VAddr} {d : PageDesc} (h : tlbFind s.tlb va = some d) :
    s.pageOf va = some d := by
  simp [pageOf, h]

/-- What an access changes, and to what. -/
theorem State.accessed_fields (s : State) (va : VAddr) (pa : PAddr) (d : PageDesc) (store : Bool) :
    s.accessed va pa d store = { s with
      tlb := (s.fillTlb va).tlb, dcache := (s.useLine pa d store).dcache, mem := s.memoryAfter pa } := by
  obtain ⟨l, hl⟩ := s.fillTlb_eq va
  obtain ⟨c, hc⟩ := State.useLine_eq { s with tlb := l } pa d store
  have hdcache : (State.useLine { s with tlb := l } pa d store).dcache = (s.useLine pa d store).dcache := by
    rw [useLine_dcache, useLine_dcache]
    rfl
  rw [hc] at hdcache
  unfold accessed
  rw [hl, hc, ← hdcache]
  rfl

/-! ### A frame's parts that fetches and loads read -/

/-- The parts that say what a fetch may return. -/
def fetchParts : List Part := [.memory, .dataCache, .instCache, .stored, .model]

section
variable {s t : State} {ps : List Part} (h : Unchanged s t ps)
include h

theorem Unchanged.rd {r : Reg} (hps : ∀ p ∈ [.reg r, .intervals, .model], p ∉ ps) : t.rd r = s.rd r := by
  have hreg : t.cpu.reg r = s.cpu.reg r := h (.reg r) (hps _ (by simp))
  have hbusy : ∀ d, t.cpu.busy d = s.cpu.busy d := h .intervals (hps _ (by simp))
  obtain ⟨-, -, -, htick⟩ : Part.Same s t .model := h .model (hps _ (by simp))
  simp only [State.rd, PU.readDest, PU.getDest, hreg, hbusy, htick]

variable (hps : ∀ p ∈ fetchParts, p ∉ ps)
include hps

theorem Unchanged.lineBytes : t.lineBytes = s.lineBytes := by
  obtain ⟨hparams, -⟩ : Part.Same s t .model := h .model (hps _ (by simp [fetchParts]))
  simp [State.lineBytes, hparams]

theorem Unchanged.lineBase (pa : PAddr) : t.lineBase pa = s.lineBase pa := by
  obtain ⟨hparams, -⟩ : Part.Same s t .model := h .model (hps _ (by simp [fetchParts]))
  exact State.lineBase_congr hparams pa

theorem Unchanged.cacheSet (i : Fin 16) : t.cacheSet i = s.cacheSet i := by
  have hcache : t.dcache = s.dcache := h .dataCache (hps _ (by simp [fetchParts]))
  simp [State.cacheSet, hcache]

theorem Unchanged.storedHalf (a : PAddr) : t.storedHalf a = s.storedHalf a := by
  have hstored : t.stored = s.stored := h .stored (hps _ (by simp [fetchParts]))
  simp [State.storedHalf, hstored]

theorem Unchanged.halfIn (a : PAddr) : t.halfIn a = s.halfIn a := by
  obtain ⟨hparams, -⟩ : Part.Same s t .model := h .model (hps _ (by simp [fetchParts]))
  have hmem : ∀ a, readByte t.mem a = readByte s.mem a := h .memory (hps _ (by simp [fetchParts]))
  simp [State.halfIn, hparams, hmem]

theorem Unchanged.mainLine (b : PAddr) : t.mainLine b = s.mainLine b := by
  have hmem : ∀ a, readByte t.mem a = readByte s.mem a := h .memory (hps _ (by simp [fetchParts]))
  simp [State.mainLine, h.cacheSet hps, h.lineBytes hps, readBytes, hmem]

theorem Unchanged.mainHalf (a : PAddr) : t.mainHalf a = s.mainHalf a := by
  obtain ⟨hparams, -⟩ : Part.Same s t .model := h .model (hps _ (by simp [fetchParts]))
  simp [State.mainHalf, h.mainLine hps, h.lineBase hps, hparams]

theorem Unchanged.fetchCopy (b : PAddr) : t.fetchCopy b = s.fetchCopy b := by
  have hicache : t.icache = s.icache := h .instCache (hps _ (by simp [fetchParts]))
  simp only [State.fetchCopy, hicache]

theorem Unchanged.fetchChoices (a : PAddr) : t.fetchChoices a = s.fetchChoices a := by
  obtain ⟨hparams, -⟩ : Part.Same s t .model := h .model (hps _ (by simp [fetchParts]))
  simp only [State.fetchChoices, h.fetchCopy hps, h.mainHalf hps, h.lineBase hps, h.storedHalf hps, hparams]

theorem Unchanged.fetched (a : PAddr) : t.fetched a = s.fetched a := by
  obtain ⟨-, -, -, htick⟩ : Part.Same s t .model := h .model (hps _ (by simp [fetchParts]))
  simp only [State.fetched, h.fetchChoices hps, h.mainHalf hps, htick]

end

/-! ### After a load -/

/-- The state after a word load from `wa` in page `d` into `rb`, before the program counters advance. -/
def State.afterLoad (s : State) (rb : Reg) (wa : WAddr) (d : PageDesc) : State :=
  (s.accessed (byteOfWord wa) (pageAddress d (byteOfWord wa)) d false).wr rb
    (readWord s.params.byteOrder (s.memoryAfter (pageAddress d (byteOfWord wa)))
      (pageAddress d (byteOfWord wa)).toNat)

theorem State.loadInto_of_allows {s : State} (rb : Reg) {wa : WAddr} {d : PageDesc} (adv : State → State)
    (h : s.Allows (byteOfWord wa) .load d) : s.loadInto rb wa adv = adv (s.afterLoad rb wa d) := by
  have hload : s.loadWord wa = .ok (readWord s.params.byteOrder (s.memoryAfter (pageAddress d (byteOfWord wa)))
      (pageAddress d (byteOfWord wa)).toNat, s.accessed (byteOfWord wa) (pageAddress d (byteOfWord wa)) d false) := by
    simp [loadWord, translate_of_allows h, accessed_fields]
  rw [loadInto, hload]
  rfl

section
variable (s : State) (rb : Reg) (wa : WAddr) (d : PageDesc)

@[simp] theorem State.afterLoad_turn : (s.afterLoad rb wa d).turn = s.turn := by
  simp [afterLoad, accessed_fields]

theorem State.afterLoad_cpu : ∃ v, (s.afterLoad rb wa d).cpu = s.cpu.writeDest (.gpr rb) v := by
  refine ⟨readWord s.params.byteOrder (s.memoryAfter (pageAddress d (byteOfWord wa)))
    (pageAddress d (byteOfWord wa)).toNat, ?_⟩
  rw [afterLoad, wr_cpu, accessed_fields]
  rfl

theorem State.afterLoad_npc : (s.afterLoad rb wa d).cpu.npc = s.cpu.npc := by
  obtain ⟨v, hv⟩ := s.afterLoad_cpu rb wa d
  rw [hv, PU.writeDest_npc]

theorem State.afterLoad_sem (cn : Bool) (k : Nat) : (s.afterLoad rb wa d).sem cn k = s.sem cn k := by
  simp [afterLoad, accessed_fields, sem, sems]

theorem unchanged_afterLoad : Unchanged s (s.afterLoad rb wa d) (accessParts ++ [.memory, .reg rb]) := by
  refine (Unchanged.trans (ps := accessParts ++ [.memory]) ?_ ?_ (unchanged_wr _ rb _)).mono (by simp)
  · simp [State.accessed_fields]
  · rw [State.accessed_fields]
    exact unchanged_memory (fun h => absurd (by simp [accessParts]) h) (fun h => absurd (by simp [accessParts]) h)
      (fun h => absurd (by simp) h) (fun _ => rfl)

end

/-- What every end of a word access leaves as it is. -/
theorem fetchParts_not_mem {also : List Part} (halso : also ⊆ [.semaphores]) :
    ∀ p ∈ fetchParts, p ∉ stepParts ++ also := by
  intro p hp hmem
  obtain h | h := List.mem_append.mp hmem
  · simp only [stepParts, List.mem_cons, List.not_mem_nil, or_false] at h
    obtain rfl | rfl | rfl := h <;> simp [fetchParts] at hp
  · rw [List.mem_singleton.mp (halso h)] at hp
    simp [fetchParts] at hp

/-- A word load, however the instruction then ends. -/
theorem loads_of_afterLoad {s t : State} {rb : Reg} {wa : WAddr} {d : PageDesc} {also : List Part}
    (hm : memoryWf s.mem) (halso : also ⊆ [.semaphores])
    (hend : Unchanged (s.afterLoad rb wa d) t (stepParts ++ also)) : Loads s t rb wa d also := by
  have hps := fetchParts_not_mem halso
  have hmem : ∀ a, readByte t.mem a = readByte (s.memoryAfter (pageAddress d (byteOfWord wa))) a := fun a => by
    refine (hend .memory (hps _ (by simp [fetchParts])) a).trans ?_
    rw [State.afterLoad, State.wr_mem, State.accessed_fields]
  have hdone : AccessDone s t (pageAddress d (byteOfWord wa)) d false := by
    refine ⟨?_, ?_, fun a _ => hmem a⟩
    · obtain ⟨hparams, -⟩ : Part.Same (s.afterLoad rb wa d) t .model := hend _ (hps _ (by simp [fetchParts]))
      rw [hparams, State.afterLoad, State.wr_params, State.accessed_fields]
    · refine (hend .dataCache (hps _ (by simp [fetchParts]))).trans ?_
      rw [State.afterLoad, State.wr_dcache, State.accessed_fields]
  refine ⟨?_, ?_, hdone.cacheAfter hm, fun a ha => (hmem a).trans (State.readByte_memoryAfter hm _ a ha)⟩
  · have hreg : Part.reg rb ∉ stepParts ++ also := by
      simp only [stepParts, List.mem_append, List.mem_cons, List.not_mem_nil, or_false, reduceCtorEq, false_or]
      exact fun h => by simpa using halso h
    refine (hend (.reg rb) hreg).trans ?_
    simp [State.afterLoad]
  · refine ((unchanged_afterLoad s rb wa d).trans (s.afterLoad_turn rb wa d) hend).mono fun p hp => ?_
    simp only [List.mem_append] at hp ⊢
    tauto

theorem loads_advance {s : State} (hm : memoryWf s.mem) (rb : Reg) (wa : WAddr) (d : PageDesc) :
    Loads s (s.afterLoad rb wa d).advance rb wa d [] :=
  loads_of_afterLoad hm (List.nil_subset _) ((unchanged_advance _).mono (List.subset_append_left ..))

/-! ### After a store -/

/-- The state in which a store at `pa` in page `d` has changed memory's bytes, with no store recorded yet. -/
def State.written (s : State) (va : VAddr) (pa : PAddr) (d : PageDesc) (m : Memory) : State :=
  { s.accessed va pa d true with mem := m }

/-- The state after a word store of `v` at `wa` in page `d`, before the program counters advance. -/
def State.afterStore (s : State) (wa : WAddr) (v : Word) (d : PageDesc) : State :=
  ((s.written (byteOfWord wa) (pageAddress d (byteOfWord wa)) d
    (writeWord s.params.byteOrder (s.memoryAfter (pageAddress d (byteOfWord wa)))
      (pageAddress d (byteOfWord wa)).toNat v)).noteHalf (pageAddress d (byteOfWord wa))).noteHalf
        (pageAddress d (byteOfWord wa) + 2)

theorem State.storeFrom_of_allows {s : State} {wa : WAddr} (v : Word) {d : PageDesc} (adv : State → State)
    (h : s.Allows (byteOfWord wa) .store d) : s.storeFrom wa v adv = adv (s.afterStore wa v d) := by
  have hstore : s.storeWord wa v = .ok (s.afterStore wa v d) := by
    simp [storeWord, translate_of_allows h, accessed_fields, afterStore, written]
  rw [storeFrom, hstore]

/-- After a store that keeps to its line, before it is recorded, a fetch from the line may return what it might
before. -/
theorem State.fetchChoices_written {s : State} (hm : memoryWf s.mem) (hc : s.CacheWf) {va : VAddr} {pa a : PAddr}
    {d : PageDesc} {m : Memory} (hbytes : ∀ b, ¬s.inLine pa b → readByte m b = readByte (s.memoryAfter pa) b)
    (ha : s.lineBase a = s.lineBase pa) : (s.written va pa d m).fetchChoices a = s.fetchChoices a := by
  have hdone : AccessDone s (s.written va pa d m) pa d true := by
    refine ⟨?_, ?_, hbytes⟩ <;> rw [written, accessed_fields]
  have hmain := hdone.mainLine_self hm hc
  have hparams := hdone.params
  have hicache : (s.written va pa d m).icache = s.icache := by rw [written, accessed_fields]
  have hstored : (s.written va pa d m).stored = s.stored := by rw [written, accessed_fields]
  simp only [fetchChoices, fetchCopy, mainHalf, storedHalf, hdone.lineBase, ha, hmain, hparams, hicache, hstored]

theorem State.fetchChoices_noteHalf_other (s : State) {pa a : PAddr} (h : a ≠ pa) :
    (s.noteHalf pa).fetchChoices a = s.fetchChoices a := by
  simp only [fetchChoices, noteHalf_fetchCopy, noteHalf_lineBase, noteHalf_params, noteHalf_mainHalf,
    storedHalf_noteHalf, if_neg h]

theorem State.storedHalf_noteHalf_self (s : State) (pa : PAddr) :
    ∃ r, (s.noteHalf pa).storedHalf pa = some r ∧ r.written = false := by
  rw [storedHalf_noteHalf, if_pos rfl]
  exact ⟨_, rfl, rfl⟩

/-- Two halfwords of one line stored to and recorded. -/
theorem recordsStores_noteHalf {s u : State} {a b : PAddr} (hab : a ≠ b) (hstored : u.stored = s.stored)
    (hu : s.CacheWf → ∀ h ∈ [a, b], u.fetchChoices h = s.fetchChoices h) :
    RecordsStores s ((u.noteHalf a).noteHalf b) [a, b] := by
  refine ⟨fun h hh => ?_, fun h hh => ?_⟩
  · obtain rfl | rfl : h = a ∨ h = b := by simpa using hh
    · refine ⟨?_, fun hc x => ?_⟩
      · rw [State.storedHalf_noteHalf, if_neg hab]
        exact u.storedHalf_noteHalf_self h
      · rw [State.fetchChoices_noteHalf_other _ hab, State.mem_fetchChoices_noteHalf, hu hc _ hh]
        rfl
    · refine ⟨(u.noteHalf a).storedHalf_noteHalf_self h, fun hc x => ?_⟩
      · rw [State.mem_fetchChoices_noteHalf, State.fetchChoices_noteHalf_other _ (Ne.symm hab), hu hc _ hh]
        rfl
  · obtain ⟨hha, hhb⟩ : h ≠ a ∧ h ≠ b := by simpa using hh
    rw [State.storedHalf_noteHalf, if_neg hhb, State.storedHalf_noteHalf, if_neg hha]
    simp only [State.storedHalf, hstored]

theorem RecordsStores.of_unchanged {s u t : State} {hs : List PAddr} {ps : List Part} (h : RecordsStores s u hs)
    (hend : Unchanged u t ps) (hps : ∀ p ∈ fetchParts, p ∉ ps) : RecordsStores s t hs := by
  unfold RecordsStores
  simp only [hend.storedHalf hps, hend.fetchChoices hps, hend.halfIn hps]
  exact h

section
variable (s : State) (wa : WAddr) (v : Word) (d : PageDesc)

/-- What a word store changes, and to what. -/
theorem State.afterStore_fields : ∃ q, s.afterStore wa v d = { s with
    tlb := (s.fillTlb (byteOfWord wa)).tlb
    dcache := (s.useLine (pageAddress d (byteOfWord wa)) d true).dcache
    mem := writeWord s.params.byteOrder (s.memoryAfter (pageAddress d (byteOfWord wa)))
      (pageAddress d (byteOfWord wa)).toNat v
    stored := q } := by
  refine ⟨(s.afterStore wa v d).stored, ?_⟩
  unfold afterStore written
  rw [accessed_fields]
  rfl

@[simp] theorem State.afterStore_params : (s.afterStore wa v d).params = s.params := by
  obtain ⟨q, hq⟩ := s.afterStore_fields wa v d
  rw [hq]

@[simp] theorem State.afterStore_turn : (s.afterStore wa v d).turn = s.turn := by
  obtain ⟨q, hq⟩ := s.afterStore_fields wa v d
  rw [hq]

@[simp] theorem State.afterStore_cpu : (s.afterStore wa v d).cpu = s.cpu := by
  unfold afterStore written
  rw [noteHalf_cpu, noteHalf_cpu, cpu_with_mem, accessed_fields]
  rfl

theorem State.afterStore_sem (cn : Bool) (k : Nat) : (s.afterStore wa v d).sem cn k = s.sem cn k := by
  obtain ⟨q, hq⟩ := s.afterStore_fields wa v d
  rw [hq]
  rfl

theorem unchanged_afterStore : Unchanged s (s.afterStore wa v d) (accessParts ++ [.memory, .stored]) := by
  obtain ⟨q, hq⟩ := s.afterStore_fields wa v d
  rw [hq]
  exact unchanged_memory (fun h => absurd (by simp [accessParts]) h) (fun h => absurd (by simp [accessParts]) h)
    (fun h => absurd (by simp) h) (fun h => absurd (by simp) h)

end

/-- A word store changes no byte outside its line. -/
theorem readByte_store_outside {s : State} (hm : memoryWf s.mem) (wa : WAddr) (v : Word) (d : PageDesc) {a : Nat}
    (ha : ¬s.inLine (pageAddress d (byteOfWord wa)) a) :
    readByte (writeWord s.params.byteOrder (s.memoryAfter (pageAddress d (byteOfWord wa)))
      (pageAddress d (byteOfWord wa)).toNat v) a = readByte (s.memoryAfter (pageAddress d (byteOfWord wa))) a :=
  readByte_writeWord (State.memoryAfter_wf hm _) _ _ _ _
    fun ⟨hlow, hhigh⟩ => ha (State.inLine_add (s.word_inside d wa) hlow hhigh)

theorem recordsStores_afterStore {s : State} (hm : memoryWf s.mem) (wa : WAddr) (v : Word) (d : PageDesc) :
    RecordsStores s (s.afterStore wa v d)
      [pageAddress d (byteOfWord wa), pageAddress d (byteOfWord wa) + 2] := by
  have hinside := s.word_inside d wa
  have hnext : s.lineBase (pageAddress d (byteOfWord wa) + 2) = s.lineBase (pageAddress d (byteOfWord wa)) :=
    State.lineBase_add (k := 2) (by omega)
  refine recordsStores_noteHalf (by simp) ?_ fun hc h hh => ?_
  · rw [State.written, State.accessed_fields]
  · refine State.fetchChoices_written hm hc (fun a ha => readByte_store_outside hm wa v d ha) ?_
    obtain rfl | rfl : h = _ ∨ h = _ := by simpa using hh
    · rfl
    · exact hnext

theorem readWord_congr {o : ByteOrder} {m m' : Memory} (h : ∀ a, readByte m a = readByte m' a) (a : Nat) :
    readWord o m a = readWord o m' a := by
  simp only [readWord, h]

/-- A word store, however the instruction then ends. -/
theorem stores_of_afterStore {s t : State} {wa : WAddr} {v : Word} {d : PageDesc} {also : List Part}
    (hm : memoryWf s.mem) (halso : also ⊆ [.semaphores])
    (hend : Unchanged (s.afterStore wa v d) t (stepParts ++ also)) : Stores s t wa v d also := by
  have hps := fetchParts_not_mem halso
  obtain ⟨q, hq⟩ := s.afterStore_fields wa v d
  have hmem : ∀ a, readByte t.mem a = readByte (writeWord s.params.byteOrder
      (s.memoryAfter (pageAddress d (byteOfWord wa))) (pageAddress d (byteOfWord wa)).toNat v) a := fun a => by
    refine (hend .memory (hps _ (by simp [fetchParts])) a).trans ?_
    rw [hq]
  have hdone : AccessDone s t (pageAddress d (byteOfWord wa)) d true := by
    refine ⟨?_, ?_, fun a ha => (hmem a).trans (readByte_store_outside hm wa v d ha)⟩
    · obtain ⟨hparams, -⟩ : Part.Same (s.afterStore wa v d) t .model := hend _ (hps _ (by simp [fetchParts]))
      rw [hparams, hq]
    · refine (hend .dataCache (hps _ (by simp [fetchParts]))).trans ?_
      rw [hq]
  refine ⟨?_, ?_, hdone.cacheAfter hm, (recordsStores_afterStore hm wa v d).of_unchanged hend hps,
    fun a ha hkept => ?_⟩
  · rw [readWord_congr hmem]
    exact readWord_writeWord (State.memoryAfter_wf hm _) _ _ _
  · refine ((unchanged_afterStore s wa v d).trans (s.afterStore_turn wa v d) hend).mono fun p hp => ?_
    simp only [List.mem_append] at hp ⊢
    tauto
  · rw [hmem, readByte_writeWord (State.memoryAfter_wf hm _) _ _ _ _ ha]
    exact State.readByte_memoryAfter hm _ a hkept

theorem stores_advance {s : State} (hm : memoryWf s.mem) (wa : WAddr) (v : Word) (d : PageDesc) :
    Stores s (s.afterStore wa v d).advance wa v d [] :=
  stores_of_afterStore hm (List.nil_subset _) ((unchanged_advance _).mono (List.subset_append_left ..))

/-- A register-indirect load of this node. -/
theorem exec_ldWR_of_allows {s : State} (rb : Reg) {ra : Reg} {d : PageDesc}
    (h : s.Allows (byteOfWord (wordAddress (s.rd ra) 0)) .load d) :
    exec (.ldWR rb ra) s = .next (s.afterLoad rb (wordAddress (s.rd ra) 0) d).advance :=
  (exec_ldWR ..).trans (congrArg _ (State.loadInto_of_allows _ _ h))

/-- A register-indirect store of this node. -/
theorem exec_stWR_of_allows {s : State} (rb : Reg) {ra : Reg} {d : PageDesc}
    (h : s.Allows (byteOfWord (wordAddress (s.rd ra) 0)) .store d) :
    exec (.stWR rb ra) s = .next (s.afterStore (wordAddress (s.rd ra) 0) (s.rd rb) d).advance :=
  (exec_stWR ..).trans (congrArg _ (State.storeFrom_of_allows _ _ h))

end Sys2Proof.Machine
end

section
/-! PROOFS. Semaphore accesses (20_memory.md R90 to R92), and the load that follows a store (R101). -/

namespace Sys2Proof.Machine

/-! ### Semaphores -/

theorem State.sem_setSem (s : State) (cn : Bool) (k : Nat) (b : Bool) (cn' : Bool) {j : Nat} (hj : j < 8) :
    (s.setSem cn k b).sem cn' j = if cn' = cn ∧ j = k then b else s.sem cn' j := by
  have hsems : (s.setSem cn k b).sems cn' = if cn' = cn then setBit8 (s.sems cn) k b else s.sems cn' := by
    cases cn <;> cases cn' <;> rfl
  unfold sem
  rw [hsems]
  by_cases hcn : cn' = cn
  · subst hcn
    simp only [if_true, true_and, setBit8_getLsbD _ _ hj]
  · simp only [hcn, false_and, if_false]

theorem unchanged_setSem (s : State) (cn : Bool) (k : Nat) (b : Bool) :
    Unchanged s (s.setSem cn k b) [.semaphores] := by
  have hpu : ∀ p, (s.setSem cn k b).pu p = s.pu p := by
    intro p
    cases cn <;> cases p <;> rfl
  have hturn : (s.setSem cn k b).turn = s.turn := by cases cn <;> rfl
  have hcpu : (s.setSem cn k b).cpu = s.cpu := by
    unfold State.cpu
    rw [hturn, hpu]
  intro p hp
  cases p with
  | semaphores => exact absurd (List.mem_singleton.mpr rfl) hp
  | otherPus => exact fun q _ => hpu q
  | memory | dataCache | instCache | stored | tlb | test | window | eventCounters | eventConfig
  | interruptArgument | pageTable | pending | model => cases cn <;> simp [Part.Same, State.setSem, State.setSems]
  | reg r | status b | counters | mask | remainder | product | statusSave | trapArg | queue | returnMark
  | waitSem | run | waitMask | pendInter | pendRestart | intervals | waitEnded => simp [Part.Same, hcpu]

@[simp] theorem State.setSem_cpu (s : State) (cn : Bool) (k : Nat) (b : Bool) : (s.setSem cn k b).cpu = s.cpu := by
  unfold setSem setSems
  split
  · exact pu_with_sem1 ..
  · exact pu_with_sem0 ..

@[simp] theorem State.setSem_turn (s : State) (cn : Bool) (k : Nat) (b : Bool) :
    (s.setSem cn k b).turn = s.turn := by
  cases cn <;> rfl

/-! ### The end of a direct access -/

theorem State.endDirect_cpu (s : State) (cn : Bool) (disp : Nat) (b : Bool) :
    (s.endDirect cn disp b).cpu = s.cpu.sequential := by
  unfold endDirect
  split <;> simp

theorem State.endDirect_at (s : State) (cn : Bool) (disp : Nat) (b : Bool) :
    (s.endDirect cn disp b).At s.cpu.npc (pcAdd s.cpu.npc 1) false .finished := by
  unfold At
  rw [endDirect_cpu]
  exact ⟨rfl, rfl, rfl, rfl, rfl, rfl⟩

theorem unchanged_endDirect (s : State) (cn : Bool) (disp : Nat) (b : Bool) :
    Unchanged s (s.endDirect cn disp b) (stepParts ++ [.semaphores]) := by
  unfold State.endDirect
  split
  · exact ((unchanged_setSem s cn disp b).trans (s.setSem_turn cn disp b) (unchanged_advance _)).mono (by simp)
  · exact (unchanged_advance s).mono (by simp)

theorem State.sem_endDirect (s : State) (cn : Bool) (disp : Nat) (b : Bool) (cn' : Bool) {j : Nat} (hj : j < 8) :
    (s.endDirect cn disp b).sem cn' j = if cn' = cn ∧ j = disp then b else s.sem cn' j := by
  unfold endDirect
  split
  · rw [← s.sem_setSem cn disp b cn' hj]
    exact congrArg (fun w => w.getLsbD j) (advance_sems ..)
  · rw [if_neg (by omega)]
    exact congrArg (fun w => w.getLsbD j) (advance_sems ..)

/-! ### The freeze of a direct access (10_state.md R71) -/

theorem State.frozen_of_waitSem {s : State} {p : PuId} {w : SemWait} (h : (s.pu p).waitSem = some w) :
    s.frozen p = (s.sem w.cluster w.index.val != w.value) := by
  simp [frozen, h]

/-- A direct access that finds its semaphore in the wrong state: the PU is frozen until the bit changes, whoever
changes it, and nothing else happens. -/
theorem State.freeze_waits {s : State} {cn : Bool} {disp : Nat} {value : Bool} (hle : disp ≤ 7)
    (hsem : s.sem cn disp = !value) :
    (s.freeze cn disp value).event = .waiting ∧ (s.freeze cn disp value).frozen s.turn = true ∧
      Unchanged s (s.freeze cn disp value) [.waitSem] ∧
      ∀ u : State, (u.pu s.turn).waitSem = (s.freeze cn disp value).cpu.waitSem → u.sem cn disp = value →
        u.frozen s.turn = false := by
  have hindex : (Fin.ofNat 8 disp).val = disp := Nat.mod_eq_of_lt (by omega)
  have hwait : (s.freeze cn disp value).cpu.waitSem = some ⟨cn, Fin.ofNat 8 disp, value⟩ := by simp [freeze]
  have hframe : Unchanged s (s.freeze cn disp value) [.waitSem] :=
    unchanged_setCpu (u := { s.cpu with waitSem := some ⟨cn, Fin.ofNat 8 disp, value⟩ }) (fun _ _ => rfl)
      (fun _ _ => rfl) (fun _ => ⟨rfl, rfl⟩) (fun _ => rfl) (fun _ => rfl) (fun _ => rfl) (fun _ => rfl)
      (fun _ => rfl) (fun _ => ⟨rfl, rfl⟩) (fun _ => rfl) (fun h => absurd (List.mem_singleton.mpr rfl) h)
      (fun _ => rfl) (fun _ => rfl) (fun _ => rfl) (fun _ => rfl) (fun _ _ => rfl) (fun _ => rfl)
  refine ⟨rfl, ?_, hframe, fun u hu hset => ?_⟩
  · have hturn : (s.freeze cn disp value).turn = s.turn := modCpu_turn ..
    have hsame : (s.freeze cn disp value).sem cn disp = s.sem cn disp := by simp [freeze, sem, sems]
    rw [← hturn, frozen_of_waitSem (p := (s.freeze cn disp value).turn) hwait, hindex, hsame, hsem]
    cases value <;> rfl
  · rw [frozen_of_waitSem (hu.trans hwait), hindex, hset]
    exact bne_self_eq_false value

theorem State.directWA_eq {s : State} {disp : Nat} {wa : WAddr} (hle : disp ≤ 7)
    (h : wa.toNat = ((s.window s.cpu.flagCN).toNat + disp) % 2 ^ 30) : wa = s.directWA disp := by
  apply BitVec.eq_of_toNat_eq
  rw [h, directWA, BitVec.toNat_add, BitVec.toNat_ofNat, Nat.mod_eq_of_lt (a := disp) (by omega)]

/-- Settles O34: `freeze` where the bit is in the wrong state, else the access ended by `endDirect`. -/
theorem semaphoreAccesses : Obligations.SemaphoreAccesses := by
  intro s rb disp wa d hle hwa
  obtain rfl := State.directWA_eq hle hwa
  refine ⟨fun hclear => ?_, fun hset => ?_, fun hm hset hallow => ?_, fun hm hclear hallow => ?_⟩
  · exact ⟨_, (exec_ldWD ..).trans (if_pos ⟨hle, hclear⟩), State.freeze_waits hle hclear⟩
  · exact ⟨_, (exec_stWD ..).trans (if_pos ⟨hle, hset⟩), State.freeze_waits hle hset⟩
  · have hexec := (exec_ldWD rb disp s).trans (if_neg (by simp [hset]))
    rw [State.loadInto_of_allows rb _ hallow] at hexec
    refine ⟨_, hexec, loads_of_afterLoad hm (List.Subset.refl _) (unchanged_endDirect _ _ _ _), ?_, fun cn k hk => ?_⟩
    · unfold Advances
      rw [← s.afterLoad_npc rb _ d]
      exact State.endDirect_at ..
    · rw [State.sem_endDirect _ _ _ _ _ hk, State.afterLoad_sem]
  · have hexec := (exec_stWD rb disp s).trans (if_neg (by simp [hclear]))
    rw [State.storeFrom_of_allows _ _ hallow] at hexec
    refine ⟨_, hexec, stores_of_afterStore hm (List.Subset.refl _) (unchanged_endDirect _ _ _ _), ?_, fun cn k hk => ?_⟩
    · have hat := (s.afterStore (s.directWA disp) (s.rd rb) d).endDirect_at s.cpu.flagCN disp true
      rwa [State.afterStore_cpu] at hat
    · rw [State.sem_endDirect _ _ _ _ _ hk, State.afterStore_sem]

/-! ### A load of the word just stored -/

/-- After a store a load of the same page is allowed if it was before: the TLB holds the page, and a line brought in
has the page's U. -/
theorem State.allows_load_afterStore {s : State} (hm : memoryWf s.mem) {wa : WAddr} {v : Word} {d : PageDesc}
    (h : s.Allows (byteOfWord wa) .load d) :
    (s.afterStore wa v d).advance.Allows (byteOfWord wa) .load d := by
  obtain ⟨hpage, hdeny, hhere, htag⟩ := h
  obtain ⟨-, -, ⟨w, hfind, hhit, hmiss, -⟩, -⟩ := stores_advance hm wa v d
  have hparams : (s.afterStore wa v d).advance.params = s.params := by simp
  have huser : (s.afterStore wa v d).advance.cpu.flagU = s.cpu.flagU := by
    rw [advance_cpu, afterStore_cpu]
    rfl
  refine ⟨pageOf_of_tlbFind ?_, by rwa [huser], hhere, ?_⟩
  · obtain ⟨q, hq⟩ := s.afterStore_fields wa v d
    rw [advance_tlb, hq]
    exact tlbFind_fillTlb hpage
  · simp only [tagDenies, lineAt, lineBase_congr hparams, hfind, huser]
    cases hu : s.cpu.flagU with
    | false => simp
    | true =>
      have huserPage : d.user = true := by
        by_contra hsystem
        simp [pageDenies, hu, hsystem] at hdeny
      cases hold : (s.cacheSet (setIndex (pageAddress d (byteOfWord wa)))).findWay
          (s.lineBase (pageAddress d (byteOfWord wa))) with
      | none =>
        obtain ⟨-, -, -, -, huserLine⟩ := hmiss hold
        simp [huserLine, huserPage]
      | some x =>
        obtain ⟨rfl, -, -, huserLine, -⟩ := hhit x hold
        rw [hu] at htag
        simpa [tagDenies, lineAt, hold, huserLine] using htag

/-- Settles O39: the store leaves its line cached, so the load finds the word that the store left in memory. -/
theorem loadSeesStore : Obligations.LoadSeesStore := by
  intro s t u rb ra rc d hm hstore hload ht hu
  have hwf : memoryWf t.mem := exec_memoryWf hm ht
  rw [exec_stWR_of_allows rb hstore] at ht
  have htEq := (Host.Outcome.next.inj ht).symm
  have hparams : t.params = s.params := by simp [htEq]
  have hallow : t.Allows (byteOfWord (wordAddress (s.rd ra) 0)) .load d := by
    rw [htEq]
    exact State.allows_load_afterStore hm hload
  obtain ⟨hword, hkept, ⟨w, hfind, -⟩, -⟩ : Stores s t (wordAddress (s.rd ra) 0) (s.rd rb) d [] := by
    rw [htEq]
    exact stores_advance hm _ _ d
  have hrd : t.rd ra = s.rd ra := hkept.rd (by simp [stepParts, accessParts])
  rw [← State.lineBase_congr hparams] at hfind
  rw [← hrd] at hallow
  rw [exec_ldWR_of_allows rc hallow] at hu
  obtain rfl := Host.Outcome.next.inj hu
  obtain ⟨hreg, -⟩ := loads_advance hwf rc (wordAddress (t.rd ra) 0) d
  rw [hreg, hrd, State.memoryAfter_of_hit hfind, hparams, hword]

end Sys2Proof.Machine
end

section
/-! PROOFS. What a fetch sees after stores, write-backs and invalidations (20_memory.md R100, 44_cache_control.md R293,
R294, R298). -/

namespace Sys2Proof.Machine

theorem fetchParts_not_mem_stepParts : ∀ p ∈ fetchParts, p ∉ stepParts := by decide

theorem fetchParts_not_mem_tlb : ∀ p ∈ fetchParts, p ∉ [Part.tlb] := by decide

theorem State.advance_fetched (s : State) (a : PAddr) : s.advance.fetched a = s.fetched a :=
  (unchanged_advance s).fetched fetchParts_not_mem_stepParts a

theorem State.advance_mainHalf (s : State) (a : PAddr) : s.advance.mainHalf a = s.mainHalf a :=
  (unchanged_advance s).mainHalf fetchParts_not_mem_stepParts a

theorem State.fillTlb_mainHalf (s : State) (va : VAddr) (a : PAddr) : (s.fillTlb va).mainHalf a = s.mainHalf a :=
  (unchanged_fillTlb s va).mainHalf fetchParts_not_mem_tlb a

@[simp] theorem State.fillTlb_lineBase (s : State) (va : VAddr) (a : PAddr) :
    (s.fillTlb va).lineBase a = s.lineBase a :=
  (unchanged_fillTlb s va).lineBase fetchParts_not_mem_tlb a

/-- A cache instruction on an allowed line of this node. -/
theorem State.cacheOp_of_allows {s : State} {a : WAddr} {k : AccessKind} {d : PageDesc}
    (op : State → PAddr → PageDesc → State) (h : s.Allows (byteOfWord a) k d) :
    s.cacheOp a k op = (op (s.fillTlb (byteOfWord a)) (pageAddress d (byteOfWord a)) d).advance := by
  simp [cacheOp, translate_of_allows h]

/-! ### A halfword of a line -/

theorem halfAt_readBytes (o : ByteOrder) (m : Memory) (a : Nat) {n k : Nat} (h : k + 1 < n) :
    halfAt o (readBytes m a n) k = halfOfBytes o (readByte m (a + k)) (readByte m (a + k + 1)) := by
  have hget : ∀ j < n, (readBytes m a n).getD j 0 = readByte m (a + j) := fun j hj => by simp [readBytes, hj]
  rw [halfAt, hget k (by omega), hget (k + 1) h]
  rfl

/-- Where Main Memory agrees with what loads see of a line, so it does of the line's halfwords. -/
theorem State.mainHalf_of_seenLine {s : State} {a : PAddr} (h : s.mainLine (s.lineBase a) = s.seenLine a)
    (heven : a.toNat % 2 = 0) : s.mainHalf a = s.halfIn a := by
  have hoffset : (s.lineBase a).toNat + (a.toNat - (s.lineBase a).toNat) = a.toNat ∧
      a.toNat - (s.lineBase a).toNat + 1 < s.lineBytes := by
    rw [lineBase_toNat]
    obtain h | h | h | h | h := s.lineBytes_cases <;> rw [h] <;> omega
  obtain ⟨hsum, hlt⟩ := hoffset
  rw [mainHalf, h, seenLine, halfAt_readBytes _ _ _ hlt, hsum]
  rfl

/-! ### IIC and IICa -/

theorem State.fetchCopy_dropFetch {s : State} {pa a : PAddr} (h : s.lineBase a = s.lineBase pa) :
    (s.dropFetch pa).fetchCopy (s.lineBase a) = none := by
  have hfind : (s.icache.filter (fun l => l.base != s.lineBase pa)).find? (fun l => l.base == s.lineBase a) =
      none := by
    refine List.find?_eq_none.mpr fun l hl => ?_
    simpa [h] using (List.mem_filter.mp hl).2
  simp [fetchCopy, dropFetch, hfind]

/-- After IIC a fetch from the line reads Main Memory, where no store to the halfword is still recorded. -/
theorem State.fetched_dropFetch {s : State} {pa a : PAddr} (h : s.lineBase a = s.lineBase pa)
    (hrecord : (s.dropFetch pa).storedHalf a = none) : (s.dropFetch pa).fetched a = s.mainHalf a :=
  fetched_of_main (fetchCopy_dropFetch h) hrecord

/-- A record that was not written back survives IIC. -/
theorem State.storedHalf_dropFetch_of_unwritten {s : State} {pa a : PAddr} {r : StoredHalf}
    (h : s.storedHalf a = some r) (hr : r.written = false) : (s.dropFetch pa).storedHalf a = some r := by
  unfold storedHalf at h
  simp only [storedHalf, dropFetch, List.find?_filter]
  generalize s.stored = l at h ⊢
  induction l with
  | nil => cases h
  | cons x l ih =>
    by_cases hx : x.addr = a
    · rw [List.find?_cons_of_pos (by simpa using hx)] at h
      obtain rfl := Option.some.inj h
      rw [List.find?_cons_of_pos (by simp [hr, hx])]
    · rw [List.find?_cons_of_neg (by simpa using hx)] at h
      rw [List.find?_cons_of_neg (by simp [hx])]
      exact ih h

/-! ### UDC, then IIC -/

theorem State.updateLine_of_dirty {s : State} {pa : PAddr} {w : Fin 4}
    (hfind : (s.cacheSet (setIndex pa)).findWay (s.lineBase pa) = some w)
    (hdirty : ((s.cacheSet (setIndex pa)).way w).dirty = true) :
    s.updateLine pa = { s with dcache := putSet s.dcache (setIndex pa) ((s.cacheSet (setIndex pa)).put w
      { (s.cacheSet (setIndex pa)).way w with
        dirty := false, backing := ((s.cacheSet (setIndex pa)).way w).writtenBack s.mem }
      (s.cacheSet (setIndex pa)).order) } := by
  simp [updateLine, hfind, hdirty]

theorem State.updateLine_of_clean {s : State} {pa : PAddr}
    (h : ∀ w, (s.cacheSet (setIndex pa)).findWay (s.lineBase pa) = some w →
      ((s.cacheSet (setIndex pa)).way w).dirty = false) : s.updateLine pa = s := by
  cases hfind : (s.cacheSet (setIndex pa)).findWay (s.lineBase pa) with
  | none => simp [updateLine, hfind]
  | some w => simp [updateLine, hfind, h w hfind]

/-- UDC changes the data cache only. -/
theorem State.updateLine_eq (s : State) (pa : PAddr) : ∃ c, s.updateLine pa = { s with dcache := c } := by
  unfold updateLine
  dsimp only
  split
  · exact ⟨s.dcache, rfl⟩
  · split
    · exact ⟨_, rfl⟩
    · exact ⟨s.dcache, rfl⟩

theorem State.updateLine_lineBase (s : State) (pa a : PAddr) : (s.updateLine pa).lineBase a = s.lineBase a := by
  obtain ⟨c, hc⟩ := s.updateLine_eq pa
  exact lineBase_congr (by rw [hc]) a

/-- After UDC the line is cached exactly if it was, with the U it had. -/
theorem State.updateLine_lineAt (s : State) (pa : PAddr) :
    ((s.updateLine pa).lineAt pa).map CacheLine.user = (s.lineAt pa).map CacheLine.user := by
  by_cases hclean : ∀ w, (s.cacheSet (setIndex pa)).findWay (s.lineBase pa) = some w →
      ((s.cacheSet (setIndex pa)).way w).dirty = false
  · rw [updateLine_of_clean hclean]
  · push Not at hclean
    obtain ⟨w, hfind, hdirty⟩ := hclean
    have hdirty : ((s.cacheSet (setIndex pa)).way w).dirty = true := by simpa using hdirty
    obtain ⟨hvalid, hbase⟩ := CacheSet.findWay_some hfind
    have hset := cacheSet_putSet (congrArg State.dcache (updateLine_of_dirty hfind hdirty)) (setIndex pa)
    rw [if_pos rfl] at hset
    have hthere := CacheSet.findWay_put (c := s.cacheSet (setIndex pa)) (b := s.lineBase pa) (w := w)
      (e := { (s.cacheSet (setIndex pa)).way w with
        dirty := false, backing := ((s.cacheSet (setIndex pa)).way w).writtenBack s.mem })
      (s.cacheSet (setIndex pa)).order hvalid hbase (fun v hv => Option.some.inj (hv.symm.trans hfind))
    simp only [lineAt, updateLine_lineBase, hset, hthere, hfind, Option.map_some, CacheSet.way_put_self]

theorem State.updateLine_tagDenies (s : State) (pa : PAddr) (k : AccessKind) (user : Bool) :
    (s.updateLine pa).tagDenies pa k user = s.tagDenies pa k user := by
  have hline := s.updateLine_lineAt pa
  unfold tagDenies
  cases hnew : (s.updateLine pa).lineAt pa <;> cases hold : s.lineAt pa <;> simp_all

/-- Where no clean line is stale and no word unstored, UDC makes Main Memory hold what loads see of the line. -/
theorem State.mainLine_updateLine {s : State} (hstale : s.NoStale) (pa : PAddr) :
    (s.updateLine pa).mainLine (s.lineBase pa) = s.seenLine pa := by
  have hpa := s.setIndex_lineBase pa
  cases hfind : (s.cacheSet (setIndex pa)).findWay (s.lineBase pa) with
  | none =>
    rw [updateLine_of_clean (by simp [hfind]), mainLine_of_none (by rw [hpa, hfind])]
    rfl
  | some w =>
    obtain ⟨hvalid, hbase⟩ := CacheSet.findWay_some hfind
    have hkept := hstale (setIndex pa) w
    simp only [CacheLine.discards, hvalid, Bool.true_and, Bool.or_eq_false_iff, bne_eq_false_iff_eq] at hkept
    obtain ⟨hunstored, hbacking⟩ := hkept
    cases hdirty : ((s.cacheSet (setIndex pa)).way w).dirty with
    | false =>
      have hnone : ((s.cacheSet (setIndex pa)).way w).backing = none := by simpa [hdirty] using hbacking
      rw [updateLine_of_clean (by simp [hfind, hdirty]), mainLine_of_find (by rw [hpa, hfind]), hpa, hnone]
      rfl
    | true =>
      have hback := CacheLine.writtenBack_of_stored s.mem hdirty hunstored
      have hset := cacheSet_putSet (congrArg State.dcache (updateLine_of_dirty hfind hdirty)) (setIndex pa)
      rw [if_pos rfl, hback] at hset
      have hthere : ((s.updateLine pa).cacheSet (setIndex pa)).findWay (s.lineBase pa) = some w := by
        rw [hset]
        exact CacheSet.findWay_put _ hvalid hbase fun v hv => Option.some.inj (hv.symm.trans hfind)
      rw [mainLine_of_find (by rw [hpa, hthere]), hpa, hset, CacheSet.way_put_self, updateLine_mem]
      obtain ⟨c, hc⟩ := s.updateLine_eq pa
      rw [hc]
      rfl

theorem State.mainHalf_updateLine {s : State} (hstale : s.NoStale) {pa a : PAddr}
    (hline : s.lineBase a = s.lineBase pa) (heven : a.toNat % 2 = 0) :
    (s.updateLine pa).mainHalf a = s.halfIn a := by
  have hmain := mainLine_updateLine hstale pa
  obtain ⟨c, hc⟩ := s.updateLine_eq pa
  have hseen : (s.updateLine pa).seenLine a = s.seenLine pa := by
    unfold seenLine
    rw [updateLine_lineBase, updateLine_mem, hline, hc]
    rfl
  have hhalf : (s.updateLine pa).halfIn a = s.halfIn a := by
    rw [hc]
    rfl
  rw [← hhalf, mainHalf_of_seenLine _ heven]
  rw [updateLine_lineBase, hline, hmain, hseen]

theorem State.tagDenies_congr {s t : State} (hparams : t.params = s.params) (hcache : t.dcache = s.dcache)
    (pa : PAddr) (k : AccessKind) (user : Bool) : t.tagDenies pa k user = s.tagDenies pa k user := by
  simp only [tagDenies, lineAt, cacheSet, lineBase_congr hparams, hcache]

/-- UDC marks every record of its line as written back. -/
theorem State.written_of_noteWritten {s : State} {pa : PAddr} {r : StoredHalf} (hr : r ∈ (s.noteWritten pa).stored)
    (hline : s.lineBase r.addr = s.lineBase pa) : r.written = true := by
  obtain ⟨q, -, rfl⟩ := List.mem_map.mp hr
  simpa using Or.inr hline

theorem State.storedHalf_dropFetch_of_written {s : State} {pa a : PAddr}
    (h : ∀ r ∈ s.stored, s.lineBase r.addr = s.lineBase pa → r.written = true)
    (ha : s.lineBase a = s.lineBase pa) : (s.dropFetch pa).storedHalf a = none := by
  refine List.find?_eq_none.mpr fun r hr => ?_
  obtain ⟨hmem, hkept⟩ := List.mem_filter.mp hr
  simp only [beq_iff_eq]
  rintro rfl
  simp [h r hmem ha, ha] at hkept

/-- The state after an allowed UDC. -/
def State.afterUpdate (s : State) (va : VAddr) (pa : PAddr) : State :=
  (((s.fillTlb va).updateLine pa).noteWritten pa).advance

theorem unchanged_afterUpdate (s : State) (va : VAddr) (pa : PAddr) :
    Unchanged s (s.afterUpdate va pa) (stepParts ++ [.tlb, .dataCache, .stored]) := by
  obtain ⟨l, hl⟩ := s.fillTlb_eq va
  obtain ⟨c, hc⟩ := State.updateLine_eq { s with tlb := l } pa
  have hframe : Unchanged s (((s.fillTlb va).updateLine pa).noteWritten pa) [.tlb, .dataCache, .stored] := by
    rw [hl, hc]
    exact unchanged_memory (fun h => absurd (by simp) h) (fun h => absurd (by simp) h) (fun _ _ => rfl)
      (fun h => absurd (by simp) h)
  refine (hframe.trans ?_ (unchanged_advance _)).mono (by simp)
  rw [hl, hc]
  rfl

/-- After UDC its address is as good for a load as before. -/
theorem State.allows_afterUpdate {s : State} {va : VAddr} {d : PageDesc} (h : s.Allows va .load d) :
    (s.afterUpdate va (pageAddress d va)).Allows va .load d := by
  obtain ⟨hpage, hdeny, hhere, htag⟩ := h
  obtain ⟨c, hc⟩ := (s.fillTlb va).updateLine_eq (pageAddress d va)
  have huser : (s.afterUpdate va (pageAddress d va)).cpu.flagU = s.cpu.flagU :=
    unchanged_afterUpdate s va _ (.status 12) (by simp [stepParts])
  refine ⟨pageOf_of_tlbFind ?_, by rwa [huser], hhere, ?_⟩
  · rw [afterUpdate, advance_tlb, show ∀ u : State, (u.noteWritten _).tlb = u.tlb from fun _ => rfl, hc]
    exact tlbFind_fillTlb hpage
  · obtain ⟨l, hl⟩ := s.fillTlb_eq va
    have hsame : (s.afterUpdate va (pageAddress d va)).tagDenies (pageAddress d va) .load s.cpu.flagU =
        ((s.fillTlb va).updateLine (pageAddress d va)).tagDenies (pageAddress d va) .load s.cpu.flagU :=
      tagDenies_congr (advance_params _) (advance_dcache _) ..
    rw [huser, hsame, updateLine_tagDenies, hl]
    exact htag

/-! ### Each of the sequences -/

/-- After UDC of a line and then IIC of it, a fetch from it sees what loads see. -/
theorem State.fetched_of_update_then_drop {s : State} (hstale : s.NoStale) (va : VAddr) {pa a : PAddr}
    (hline : s.lineBase a = s.lineBase pa) (heven : a.toNat % 2 = 0) :
    (((s.afterUpdate va pa).fillTlb va).dropFetch pa).advance.fetched a = s.halfIn a := by
  obtain ⟨l, hl⟩ := s.fillTlb_eq va
  obtain ⟨c, hc⟩ := State.updateLine_eq { s with tlb := l } pa
  obtain ⟨l', hl'⟩ := (s.afterUpdate va pa).fillTlb_eq va
  have hparams : (s.afterUpdate va pa).params = s.params := by
    rw [afterUpdate, advance_params, hl, hc]
    rfl
  have hbase : ∀ b, ((s.afterUpdate va pa).fillTlb va).lineBase b = s.lineBase b := fun b => by
    rw [fillTlb_lineBase, lineBase_congr hparams]
  have hmain : ((s.fillTlb va).updateLine pa).mainHalf a = s.halfIn a := by
    refine (mainHalf_updateLine (fun i w => ?_) (by rwa [fillTlb_lineBase, fillTlb_lineBase]) heven).trans
      ((unchanged_fillTlb s va).halfIn fetchParts_not_mem_tlb a)
    rw [(unchanged_fillTlb s va).cacheSet fetchParts_not_mem_tlb]
    exact hstale i w
  rw [advance_fetched, fetched_dropFetch (by rw [hbase, hbase, hline]), fillTlb_mainHalf, afterUpdate,
    advance_mainHalf]
  · exact hmain
  · refine storedHalf_dropFetch_of_written (fun r hr hr' => ?_) (by rw [hbase, hbase, hline])
    rw [hbase, hbase] at hr'
    refine written_of_noteWritten (s := (s.fillTlb va).updateLine pa) (pa := pa) ?_ ?_
    · rw [hl', afterUpdate] at hr
      simpa using hr
    · rwa [updateLine_lineBase, updateLine_lineBase, fillTlb_lineBase, fillTlb_lineBase]

theorem exec_udc (ra : Reg) (s : State) : exec (.udc ra) s = .next (s.cacheOp (wordAddress (s.rd ra) 0) .load
    (fun t pa _ => (t.updateLine pa).noteWritten pa)) := rfl

theorem exec_fdc (ra : Reg) (s : State) : exec (.fdc ra) s = .next (s.cacheOp (wordAddress (s.rd ra) 0) .load
    (fun t pa _ => (t.flushLine pa).noteWritten pa)) := rfl

theorem exec_iic (ra : Reg) (s : State) : exec (.iic ra) s = .next (s.cacheOp (wordAddress (s.rd ra) 0) .load
    (fun t pa _ => t.dropFetch pa)) := rfl

theorem exec_iicA_of_system {s : State} (h : s.cpu.flagU = false) :
    exec .iicA s = .next s.dropAllFetch.advance := by
  simp [exec, execIicA, h]

/-- After IIC of its line a fetch reads Main Memory, where every store to the halfword was written back before. -/
theorem State.fetched_of_drop {s : State} (hs : s.StoredWf) (va : VAddr) {pa a : PAddr}
    (hline : s.lineBase a = s.lineBase pa) (hwritten : ∀ r, s.storedHalf a = some r → r.written = true) :
    ((s.fillTlb va).dropFetch pa).advance.fetched a = s.mainHalf a := by
  obtain ⟨l, hl⟩ := s.fillTlb_eq va
  rw [advance_fetched, fetched_dropFetch (by rwa [fillTlb_lineBase, fillTlb_lineBase]), fillTlb_mainHalf]
  rw [storedHalf_dropFetch (by rw [hl]; exact hs), fillTlb_lineBase, fillTlb_lineBase, hline,
    (unchanged_fillTlb s va).storedHalf fetchParts_not_mem_tlb]
  cases h : s.storedHalf a with
  | none => rfl
  | some r => simp [hwritten r h]

/-- The same of IICa. -/
theorem State.fetched_of_dropAll {s : State} (hs : s.StoredWf) {a : PAddr}
    (hwritten : ∀ r, s.storedHalf a = some r → r.written = true) :
    s.dropAllFetch.advance.fetched a = s.mainHalf a := by
  rw [advance_fetched, fetched_of_main rfl]
  · rfl
  · rw [storedHalf_dropAllFetch hs]
    cases h : s.storedHalf a with
    | none => rfl
    | some r => simp [hwritten r h]

/-- A fetch may return each value of the record of its halfword. -/
theorem State.mem_fetchChoices_of_record {s : State} {a : PAddr} {r : StoredHalf} {x : Half}
    (h : s.storedHalf a = some r) (hx : x ∈ r.values) : x ∈ s.fetchChoices a := by
  simp [fetchChoices, h, hx]

/-- A cache instruction keeps the values of a record that its operation keeps. -/
theorem State.record_cacheOp {s : State} {a : PAddr} {r : StoredHalf} (wa : WAddr) (k : AccessKind)
    {op : State → PAddr → PageDesc → State} (h : s.storedHalf a = some r)
    (hop : ∀ u pa d, u.storedHalf a = some r → ∃ q, (op u pa d).storedHalf a = some q ∧ q.values = r.values) :
    ∃ q, (s.cacheOp wa k op).storedHalf a = some q ∧ q.values = r.values := by
  have htlb := (unchanged_fillTlb s (byteOfWord wa)).storedHalf fetchParts_not_mem_tlb a
  have hadvance : ∀ u : State, u.advance.storedHalf a = u.storedHalf a := fun u =>
    (unchanged_advance u).storedHalf fetchParts_not_mem_stepParts a
  obtain ⟨f, heq⟩ | heq | heq | ⟨pa, d, heq⟩ := s.cacheOp_cases wa k op
  · refine ⟨r, ?_, rfl⟩
    rw [heq, (unchanged_dataFault s f _).storedHalf (by simp [fetchParts, entryParts]), h]
  · exact ⟨r, by rw [heq, hadvance, h], rfl⟩
  · exact ⟨r, by rw [heq, hadvance, htlb, h], rfl⟩
  · rw [heq, hadvance]
    exact hop _ pa d (htlb.trans h)

theorem State.flushLine_stored (s : State) (pa : PAddr) : (s.flushLine pa).stored = s.stored := by
  unfold flushLine
  dsimp only
  split <;> rfl

theorem State.record_noteWritten {s : State} {a : PAddr} {r : StoredHalf} (pa : PAddr) (h : s.storedHalf a = some r) :
    ∃ q, (s.noteWritten pa).storedHalf a = some q ∧ q.values = r.values := by
  rw [storedHalf_noteWritten, h]
  exact ⟨_, rfl, rfl⟩

/-- FDC and UDC keep the values of every record. -/
theorem record_of_writeBack {s t : State} {i : Instr} {ra : Reg} {a : PAddr} {r : StoredHalf}
    (hi : i = .fdc ra ∨ i = .udc ra) (h : s.storedHalf a = some r) (ht : exec i s = .next t) :
    ∃ q, t.storedHalf a = some q ∧ q.values = r.values := by
  obtain rfl | rfl := hi
  · rw [exec_fdc] at ht
    obtain rfl := Host.Outcome.next.inj ht
    refine State.record_cacheOp _ _ h fun u pa _ hu => State.record_noteWritten pa ?_
    simpa only [State.storedHalf, State.flushLine_stored] using hu
  · rw [exec_udc] at ht
    obtain rfl := Host.Outcome.next.inj ht
    refine State.record_cacheOp _ _ h fun u pa _ hu => State.record_noteWritten pa ?_
    obtain ⟨c, hc⟩ := u.updateLine_eq pa
    rw [hc]
    exact hu

/-- Settles O58, a clause for each sequence: UDC and IIC, IIC or IICa alone, the store alone, IIC before FDC or UDC. -/
theorem fetchSeesUpdatedLine : Obligations.FetchSeesUpdatedLine := by
  refine ⟨?_, ?_, ?_, ?_⟩
  · intro s t u ra d off hm hc hstale va hallow ht hu hline heven
    rw [exec_udc, State.cacheOp_of_allows _ hallow] at ht
    have ht : t = s.afterUpdate va (pageAddress d va) := (Host.Outcome.next.inj ht).symm
    have hrd : t.rd ra = s.rd ra := by
      rw [ht]
      exact (unchanged_afterUpdate s va _).rd (by simp [stepParts])
    have hallow' : t.Allows (byteOfWord (wordAddress (s.rd ra) 0)) .load d := by
      rw [ht]
      exact State.allows_afterUpdate hallow
    rw [exec_iic, hrd, State.cacheOp_of_allows _ hallow', ht] at hu
    rw [← Host.Outcome.next.inj hu]
    exact State.fetched_of_update_then_drop hstale va hline heven
  · intro s t i ra d off hs va hi hwritten ht
    obtain ⟨rfl, hallow, hline⟩ | ⟨rfl, hsystem⟩ := hi
    · rw [exec_iic, State.cacheOp_of_allows _ hallow] at ht
      rw [← Host.Outcome.next.inj ht]
      exact State.fetched_of_drop hs va hline hwritten
    · rw [exec_iicA_of_system hsystem] at ht
      rw [← Host.Outcome.next.inj ht]
      exact State.fetched_of_dropAll hs hwritten
  · intro s t rb ra d off hm hc va pa hallow ht hoff
    rw [exec_stWR_of_allows rb hallow] at ht
    obtain ⟨-, -, -, ⟨hrecord, -⟩, -⟩ : Stores s t (wordAddress (s.rd ra) 0) (s.rd rb) d [] := by
      rw [← Host.Outcome.next.inj ht]
      exact stores_advance hm _ _ d
    obtain ⟨-, hchoices⟩ := hrecord off (by simpa using hoff)
    exact (hchoices hc _).mp (t.fetched_mem off)
  · intro s t u i ra off r x hr hunwritten hx ht hi hu
    rw [exec_iic] at ht
    obtain ⟨q, hq, hvalues⟩ : ∃ q, t.storedHalf off = some q ∧ q.values = r.values := by
      rw [← Host.Outcome.next.inj ht]
      exact State.record_cacheOp _ _ hr fun v pa _ hv =>
        ⟨r, State.storedHalf_dropFetch_of_unwritten hv hunwritten, rfl⟩
    rw [← hvalues] at hx
    obtain ⟨q', hq', hvalues'⟩ := record_of_writeBack hi hq hu
    exact ⟨State.mem_fetchChoices_of_record hq hx, State.mem_fetchChoices_of_record hq' (by rwa [hvalues'])⟩

end Sys2Proof.Machine
end

section
/-! PROOFS. Accesses to pages of other nodes (20_memory.md R95, R96, R103; L44): Node Busy, or done with an open
value. -/

namespace Sys2Proof.Machine

/-! ### What a remote access answers -/

theorem State.translate_of_remote {s : State} {va : VAddr} {k : AccessKind} (h : s.Remote va k) :
    s.translate va k s.cpu.flagU = .error .nodeBusy ∨ s.translate va k s.cpu.flagU = .ok .remote := by
  obtain ⟨d, hpage, hdeny, hmessage⟩ := h
  by_cases hbusy : Config.freeBit s.tick (tagNode k va) = true
  · exact .inl (by simp [translate, hpage, hdeny, hmessage, hbusy])
  · exact .inr (by simp [translate, hpage, hdeny, hmessage, hbusy])

/-- A change of the executing PU changes no translation. -/
theorem State.translate_modCpu (s : State) (f : PU → PU) (va : VAddr) (k : AccessKind) (user : Bool) :
    (s.modCpu f).translate va k user = s.translate va k user := by
  simp only [translate, pageOf, modCpu_tlb, modCpu_s15, modCpu_mem, modCpu_tick,
    tagDenies_congr (modCpu_params s f) (modCpu_dcache s f)]

theorem State.translate_wr (s : State) (r : Reg) (v : Word) (va : VAddr) (k : AccessKind) :
    (s.wr r v).translate va k (s.wr r v).cpu.flagU = s.translate va k s.cpu.flagU := by
  rw [show (s.wr r v).cpu.flagU = s.cpu.flagU by simp [PU.flagU]]
  exact s.translate_modCpu (fun u => u.writeDest (.gpr r) v) va k _

section
variable {s : State}

theorem State.loadWord_of_remote {wa : WAddr}
    (h : s.translate (byteOfWord wa) .load s.cpu.flagU = .ok .remote) :
    s.loadWord wa = .ok (Config.freeWord s.tick (tagAt 7 (byteOfWord wa)), s.fillTlb (byteOfWord wa)) := by
  simp [loadWord, h]

theorem State.storeWord_of_remote {wa : WAddr} (v : Word)
    (h : s.translate (byteOfWord wa) .store s.cpu.flagU = .ok .remote) :
    s.storeWord wa v = .ok (s.fillTlb (byteOfWord wa)) := by
  simp [storeWord, h]

theorem State.loadByte_of_remote {va : VAddr} (h : s.translate va .load s.cpu.flagU = .ok .remote) :
    s.loadByte va = .ok ((Config.freeWord s.tick (tagAt 8 va)).extractLsb' 0 8, s.fillTlb va) := by
  simp [loadByte, h]

theorem State.storeByte_of_remote {va : VAddr} (b : Byte)
    (h : s.translate va .store s.cpu.flagU = .ok .remote) : s.storeByte va b = .ok (s.fillTlb va) := by
  simp [storeByte, h]

theorem State.loadByte_of_error {va : VAddr} {f : MemFault}
    (h : s.translate va .load s.cpu.flagU = .error f) : s.loadByte va = .error f := by
  simp [loadByte, h]

theorem State.storeByte_of_error {va : VAddr} {f : MemFault} (b : Byte)
    (h : s.translate va .store s.cpu.flagU = .error f) : s.storeByte va b = .error f := by
  simp [storeByte, h]

theorem State.fetchHalf_of_remote {h : HAddr}
    (ht : s.translate (byteOfHalf h) .fetch s.cpu.flagU = .ok .remote) :
    s.fetchHalf h = .ok ((Config.freeWord s.tick (tagAt 9 (byteOfHalf h))).extractLsb' 0 16,
      s.fillTlb (byteOfHalf h)) := by
  simp [fetchHalf, ht]

theorem State.fetchHalf_of_error {h : HAddr} {f : MemFault}
    (ht : s.translate (byteOfHalf h) .fetch s.cpu.flagU = .error f) : s.fetchHalf h = .error f := by
  simp [fetchHalf, ht]

end

/-! ### Ends of instructions -/

theorem unchanged_sequentialExtended (s : State) : Unchanged s s.advanceExtended stepParts :=
  unchanged_setCpu (u := s.cpu.sequentialExtended) (fun _ _ => rfl) (fun _ _ => rfl)
    (fun h => absurd (by simp [stepParts]) h) (fun _ => rfl) (fun _ => rfl) (fun _ => rfl) (fun _ => rfl)
    (fun _ => rfl) (fun _ => ⟨rfl, rfl⟩) (fun _ => rfl) (fun h => absurd (by simp [stepParts]) h)
    (fun h => absurd (by simp [stepParts]) h) (fun _ => rfl) (fun _ => rfl) (fun _ => rfl) (fun _ _ => rfl)
    (fun _ => rfl)

theorem State.advanceExtended_at (s : State) :
    s.advanceExtended.At (pcAdd s.cpu.npc 1) (pcAdd s.cpu.npc 2) false .finishedExtended := by
  simp [At]

theorem unchanged_endAccess (s : State) (i : Instr) (t : State) :
    Unchanged t (s.endAccess i t) (stepParts ++ [.semaphores]) := by
  unfold State.endAccess
  split
  · exact unchanged_endDirect _ _ _ _
  · exact unchanged_endDirect _ _ _ _
  · exact (unchanged_sequentialExtended t).mono (List.subset_append_left ..)
  · exact (unchanged_sequentialExtended t).mono (List.subset_append_left ..)
  · exact (unchanged_advance t).mono (List.subset_append_left ..)

section
variable {i : Instr} {s : State} {k : AccessKind} {rb : Reg} {wa : WAddr} (h : WordAccess i s k rb wa)
include h

theorem WordAccess.endAccess_at (t : State) :
    if i.form.extended then AdvancesExtended t (s.endAccess i t) else Advances t (s.endAccess i t) := by
  obtain ⟨_, _, -, ⟨-, rfl⟩ | ⟨-, rfl⟩⟩ | ⟨_, -, ⟨-, rfl⟩ | ⟨-, rfl⟩⟩ | ⟨_, _, -, -, ⟨-, rfl⟩ | ⟨-, rfl⟩⟩ |
    ⟨_, -, ⟨-, rfl, -⟩ | ⟨-, rfl, -⟩⟩ := h
  · exact t.advance_at
  · exact t.advance_at
  · exact t.advance_at
  · exact t.advance_at
  · exact t.advanceExtended_at
  · exact t.advanceExtended_at
  · exact t.endDirect_at _ _ _
  · exact t.endDirect_at _ _ _

/-- A direct access below 8 writes its semaphore, and no access another. -/
theorem WordAccess.sem_endAccess (t : State) (cn : Bool) {j : Nat} (hj : j < 8) :
    (s.endAccess i t).sem cn j = if cn = s.cpu.flagCN ∧ (i = .ldWD rb j ∨ i = .stWD rb j)
      then decide (k = .store) else t.sem cn j := by
  have hadvance : t.advance.sem cn j = t.sem cn j := congrArg (fun w => w.getLsbD j) (State.advance_sems t cn)
  have hextended : t.advanceExtended.sem cn j = t.sem cn j := by simp [State.sem, State.sems]
  obtain ⟨_, _, -, ⟨-, rfl⟩ | ⟨-, rfl⟩⟩ | ⟨_, -, ⟨-, rfl⟩ | ⟨-, rfl⟩⟩ | ⟨_, _, -, -, ⟨-, rfl⟩ | ⟨-, rfl⟩⟩ |
    ⟨disp, -, ⟨rfl, rfl, -⟩ | ⟨rfl, rfl, -⟩⟩ := h
  · simpa [State.endAccess] using hadvance
  · simpa [State.endAccess] using hadvance
  · simpa [State.endAccess] using hadvance
  · simpa [State.endAccess] using hadvance
  · simpa [State.endAccess] using hextended
  · simpa [State.endAccess] using hextended
  · simpa [State.endAccess, eq_comm] using t.sem_endDirect s.cpu.flagCN disp false cn hj
  · simpa [State.endAccess, eq_comm] using t.sem_endDirect s.cpu.flagCN disp true cn hj

end

theorem Unchanged.turn {s t : State} {ps : List Part} (h : Unchanged s t ps) (hps : Part.model ∉ ps) :
    t.turn = s.turn := by
  obtain ⟨-, hturn, -⟩ : Part.Same s t .model := h _ hps
  exact hturn

/-- Where the counters stand relative to an earlier state with the same ones. -/
theorem advances_of_unchanged {s u : State} {ps : List Part} (h : Unchanged s u ps) (hps : Part.counters ∉ ps) :
    Advances s u.advance := by
  obtain ⟨-, hnpc⟩ : Part.Same s u .counters := h _ hps
  have hat := u.advance_at
  rwa [hnpc] at hat

/-! ### Word accesses -/

/-- A remote word access that is not busy: the TLB, the register loaded, and what the instruction does beside it. -/
theorem WordAccess.remote {i : Instr} {s : State} {k : AccessKind} {rb : Reg} {wa : WAddr}
    (h : WordAccess i s k rb wa) (hremote : s.translate (byteOfWord wa) k s.cpu.flagU = .ok .remote) :
    ∃ u, exec i s = .next (s.endAccess i u) ∧
      Unchanged s u (.tlb :: if k = .load then [.reg rb] else []) := by
  obtain rfl | rfl := h.kind
  · refine ⟨_, ?_, ((unchanged_fillTlb s (byteOfWord wa)).trans (s.fillTlb_turn _)
      (unchanged_wr _ rb (Config.freeWord s.tick (tagAt 7 (byteOfWord wa))))).mono (by simp)⟩
    rw [h.exec_load, State.loadInto, State.loadWord_of_remote hremote]
  · refine ⟨_, ?_, (unchanged_fillTlb s (byteOfWord wa)).mono (by simp)⟩
    rw [h.exec_store, State.storeFrom, State.storeWord_of_remote _ hremote]

theorem remote_wordAccess {s : State} {rb : Reg} {i : Instr} {k : AccessKind} {wa : WAddr}
    (h : WordAccess i s k rb wa) (hremote : s.Remote (byteOfWord wa) k) :
    FaultsWith i s 0x11 (BitVec.ofNat 32 wa.toNat) [] ∨
      ∃ t, exec i s = .next t ∧ (if i.form.extended then AdvancesExtended s t else Advances s t) ∧
        (∀ cn j, j < 8 → t.sem cn j = if cn = s.cpu.flagCN ∧ (i = .ldWD rb j ∨ i = .stWD rb j)
          then decide (k = .store) else s.sem cn j) ∧
        Unchanged s t (stepParts ++ [.tlb, .semaphores] ++ (if k = .load then [.reg rb] else [])) := by
  obtain hbusy | hdone := State.translate_of_remote hremote
  · exact .inl (h.faultsWith hbusy)
  · obtain ⟨u, hexec, hframe⟩ := h.remote hdone
    have hturn := hframe.turn (by cases k <;> simp)
    obtain ⟨-, hnpc⟩ : Part.Same s u .counters := hframe _ (by cases k <;> simp)
    obtain ⟨hsem0, hsem1⟩ : Part.Same s u .semaphores := hframe _ (by cases k <;> simp)
    refine .inr ⟨_, hexec, ?_, fun cn j hj => ?_, ?_⟩
    · have hat := h.endAccess_at u
      unfold AdvancesExtended Advances at hat ⊢
      rwa [hnpc] at hat
    · have hsem : u.sem cn j = s.sem cn j := by simp only [State.sem, State.sems, hsem0, hsem1]
      rw [h.sem_endAccess u cn hj, hsem]
    · refine (hframe.trans hturn (unchanged_endAccess s i u)).mono fun p hp => ?_
      simp only [List.mem_append, List.mem_cons] at hp ⊢
      tauto

/-! ### Byte accesses -/

theorem zeroExtendByte_lt (b : Byte) : (zeroExtendByte b).toNat < 256 := by
  rw [zeroExtendByte, BitVec.toNat_append]
  simpa using b.isLt

/-- The pointer is stepped before the access, whose fault is the instruction's own. -/
theorem faultsWith_of_stepped {i : Instr} {s : State} {p : Reg} {v : Word} {f : MemFault} {ptr : Word}
    (h : exec i s = .next ((s.wr p v).dataFault f ptr)) :
    FaultsWith i s (dataFaultNumber f).val ptr [.reg p] ∧ ∀ t, exec i s = .next t → t.cpu.reg p = v := by
  have hframe := unchanged_dataFault (s.wr p v) f ptr
  refine ⟨⟨_, h, ((s.wr p v).dataFault_takesTrap f ptr).of_same (State.wr_turn ..) ?_ ?_ ?_, fun hT => ?_, ?_⟩,
    fun t ht => ?_⟩
  · simp
  · simp
  · simp
  · exact State.dataFault_trapArg f ptr (by simpa [PU.flagT] using hT)
  · exact ((unchanged_wr s p v).trans (State.wr_turn ..) hframe).mono (by simp)
  · rw [h] at ht
    rw [← Host.Outcome.next.inj ht]
    refine (hframe (.reg p) (by simp [entryParts])).trans ?_
    simp

theorem remote_byteAccess {s : State} {d p : Reg} {i : Instr} {k : AccessKind}
    (hi : (k = .load ∧ i = .ldB d p) ∨ (k = .store ∧ i = .stB d p)) (hremote : s.Remote (byteOfPointer (s.rd p)) k) :
    (FaultsWith i s 0x11 (s.rd p) [.reg p] ∧
        ∀ t, exec i s = .next t → t.cpu.reg p = nextBytePtr (s.rd p)) ∨
      ∃ t, exec i s = .next t ∧ Advances s t ∧
        (k = .load → (t.cpu.reg d).toNat < 256) ∧
        (k = .store ∨ d ≠ p → t.cpu.reg p = nextBytePtr (s.rd p)) ∧
        Unchanged s t (stepParts ++ [.tlb, .reg p] ++ (if k = .load then [.reg d] else [])) := by
  have htranslate := State.translate_of_remote hremote
  rw [← s.translate_wr p (nextBytePtr (s.rd p))] at htranslate
  have hstepped := (unchanged_wr s p (nextBytePtr (s.rd p))).trans (State.wr_turn ..)
    (unchanged_fillTlb (s.wr p (nextBytePtr (s.rd p))) (byteOfPointer (s.rd p)))
  obtain ⟨rfl, rfl⟩ | ⟨rfl, rfl⟩ := hi
  · obtain hbusy | hdone := htranslate
    · exact .inl (faultsWith_of_stepped (exec_ldB_of_fault (State.loadByte_of_error hbusy)))
    · refine .inr ⟨_, exec_ldB_of_ok (State.loadByte_of_remote hdone), ?_, fun _ => ?_, fun hother => ?_, ?_⟩
      · exact advances_of_unchanged (hstepped.trans (by simp) (unchanged_wr _ d _)) (by simp)
      · simpa using zeroExtendByte_lt _
      · have hne : p ≠ d := by
          obtain h | h := hother
          · cases h
          · exact h.symm
        simp [PU.writeDest_get_other _ _ hne]
      · exact ((hstepped.trans (by simp) (unchanged_wr _ d _)).trans (by simp) (unchanged_advance _)).mono (by simp)
  · obtain hbusy | hdone := htranslate
    · exact .inl (faultsWith_of_stepped (exec_stB_of_fault (State.storeByte_of_error _ hbusy)))
    · refine .inr ⟨_, exec_stB_of_ok (State.storeByte_of_remote _ hdone), ?_,
        fun h => absurd h (by decide), fun _ => ?_, ?_⟩
      · exact advances_of_unchanged hstepped (by simp)
      · simp
      · exact (hstepped.trans (by simp) (unchanged_advance _)).mono (by simp)

end Sys2Proof.Machine
end

section
/-! PROOFS. Transfers of LdM and StM to pages of other nodes (20_memory.md R89, R95, R103; L44). -/

namespace Sys2Proof.Machine

/-! ### RCnt -/

/-- The bits of SSCR below RCnt stay. -/
theorem PU.withRCnt_getLsbD (u : PU) (k : BitVec 4) {b : Nat} (hb : b < 28) :
    (u.withRCnt k).sscr.getLsbD b = u.sscr.getLsbD b := by
  rw [withRCnt, BitVec.getLsbD_append, if_pos hb, BitVec.getLsbD_extractLsb']
  simp [hb]

theorem PU.withRCnt_flagU (u : PU) (k : BitVec 4) : (u.withRCnt k).flagU = u.flagU :=
  u.withRCnt_getLsbD k (by decide)

theorem status_mem_countParts {b : Fin 32} (hb : 28 ≤ b.val) : Part.status b ∈ countParts := by
  have hcases : b = 28 ∨ b = 29 ∨ b = 30 ∨ b = 31 := by omega
  simpa [countParts] using hcases

theorem unchanged_withRCnt (s : State) (k : BitVec 4) :
    Unchanged s (s.modCpu (fun u => u.withRCnt k)) countParts :=
  unchanged_setCpu (u := s.cpu.withRCnt k) (e := (s.modCpu (fun u => u.withRCnt k)).event)
    (fun _ _ => rfl)
    (fun _ hb => s.cpu.withRCnt_getLsbD k (Nat.lt_of_not_le fun h => hb (status_mem_countParts h)))
    (fun _ => ⟨rfl, rfl⟩) (fun _ => rfl) (fun _ => rfl) (fun _ => rfl) (fun _ => rfl) (fun _ => rfl)
    (fun _ => ⟨rfl, rfl⟩) (fun _ => rfl) (fun _ => rfl) (fun _ => rfl) (fun _ => rfl) (fun _ => rfl)
    (fun _ => rfl) (fun _ _ => rfl) (fun _ => rfl)

theorem unchanged_faultCount (s : State) (k : Nat) : Unchanged s (s.faultCount k) countParts :=
  unchanged_withRCnt s _

theorem unchanged_faultAddress (s : State) (r : Reg) (a : Word) (n k : Nat) :
    Unchanged s (s.faultAddress r a n k) [.reg r] := by
  unfold State.faultAddress
  split
  · exact unchanged_wr s r _
  · exact (Unchanged.refl s).mono (List.nil_subset _)

/-! ### A data fault after the pieces an instruction changes first -/

theorem dataFault_of_unchanged {s u : State} {ps : List Part} (h : Unchanged s u ps) (hT : Part.status 11 ∉ ps)
    (hmodel : Part.model ∉ ps) (f : MemFault) (ptr : Word) :
    (u.dataFault f ptr).AtEntry s.turn (if s.cpu.flagT then (dataFaultNumber f).val else 0x1E) ∧
      (s.cpu.flagT = true → (u.dataFault f ptr).cpu.trapArg = ptr) ∧
      Unchanged s (u.dataFault f ptr) (ps ++ (entryParts ++ [.trapArg])) := by
  have hflag : u.cpu.flagT = s.cpu.flagT := h _ hT
  have hturn := h.turn hmodel
  refine ⟨?_, fun hset => State.dataFault_trapArg f ptr (hflag.trans hset),
    h.trans hturn (unchanged_dataFault u f ptr)⟩
  rw [← hflag, ← hturn]
  exact (u.dataFault_takesTrap f ptr).atEntry

/-! ### The rest of a run -/

/-- The PU stays at the instruction with the rest of the run. -/
theorem State.runOn_waits (s : State) (x : Transfer) :
    (s.runOn x).event = .waiting ∧
      (s.runOn x).cpu.run = some (.move { x with next := regOf (x.next.val - 1) }) ∧ Unchanged s (s.runOn x) [.run] :=
  s.stay_withRest (.move { x with next := regOf (x.next.val - 1) })

section
variable {x : Transfer} (hover : runOverlaps x.count x.addr = false)
include hover

theorem freeOverlap_of_disjoint (s : State) : s.freeOverlap x = s := by
  simp [State.freeOverlap, hover]

/-- The last load of a run is done. -/
theorem endLoads_of_disjoint (s : State) :
    ∃ u, s.endLoads x = u.advance ∧ Unchanged s u (.reg x.addr :: countParts) := by
  refine ⟨_, rfl, ?_⟩
  rw [freeOverlap_of_disjoint hover]
  exact (unchanged_wr s x.addr _).trans (State.wr_turn ..) (unchanged_withRCnt _ _)

end

/-- A transfer of the run has been made: the PU waits with the others, or the instruction has ended. -/
def Transfer.Moved (s t : State) (x : Transfer) : Prop :=
  (1 < x.next.val → t.event = .waiting ∧ t.cpu.run = some (.move { x with next := regOf (x.next.val - 1) }) ∧
      t.cpu.pc = s.cpu.pc ∧ t.cpu.npc = s.cpu.npc) ∧
    (x.next.val ≤ 1 → Advances s t)

section
variable {s u : State} {x : Transfer} {ps : List Part} (h : Unchanged s u ps) (hcounters : Part.counters ∉ ps)
include h hcounters

theorem Transfer.moved_runOn (hmore : 1 < x.next.val) : x.Moved s (u.runOn x) := by
  obtain ⟨hevent, hrun, hframe⟩ := u.runOn_waits x
  obtain ⟨hpc, hnpc⟩ : Part.Same s u .counters := h _ hcounters
  obtain ⟨hpc', hnpc'⟩ : Part.Same u (u.runOn x) .counters := hframe _ (by simp)
  exact ⟨fun _ => ⟨hevent, hrun, hpc'.trans hpc, hnpc'.trans hnpc⟩, fun hlast => by omega⟩

theorem Transfer.moved_advance (hlast : x.next.val ≤ 1) : x.Moved s u.advance :=
  ⟨fun hmore => by omega, fun _ => advances_of_unchanged h hcounters⟩

end

/-! ### One remote transfer -/

/-- The state of a transfer's access: RCnt is the number of the register it moves. -/
def State.atCount (s : State) (x : Transfer) : State := s.modCpu (fun u => u.withRCnt (BitVec.ofNat 4 x.next.val))

theorem unchanged_atCount (s : State) (x : Transfer) : Unchanged s (s.atCount x) countParts := unchanged_withRCnt s _

@[simp] theorem State.atCount_turn (s : State) (x : Transfer) : (s.atCount x).turn = s.turn := modCpu_turn ..

theorem State.translate_atCount (s : State) (x : Transfer) (va : VAddr) (k : AccessKind) :
    (s.atCount x).translate va k (s.atCount x).cpu.flagU = s.translate va k s.cpu.flagU := by
  rw [atCount, translate_modCpu, modCpu_cpu, PU.withRCnt_flagU]

/-- Where LdM's next transfer loads from (R165). -/
def Transfer.loadAddress (x : Transfer) : WAddr := wordAddress x.base (x.next.val - 1)

/-- Where StM's next transfer stores: RegA as the earlier transfers and this one leave it (R175). -/
def Transfer.storeAddress (x : Transfer) : Word := x.base - BitVec.ofNat 32 (x.count.val + 1 - x.next.val)

section
variable {s : State} {x : Transfer}

theorem loadTransfer_of_ok {v : Word} {t : State} (h : (s.atCount x).loadWord x.loadAddress = .ok (v, t)) :
    s.loadTransfer x =
      if x.next.val ≤ 1 then (t.wr x.next v).endLoads x else (t.wr x.next v).runOn x := by
  unfold State.atCount Transfer.loadAddress at h
  simp only [State.loadTransfer, h]

theorem loadTransfer_of_error (hover : runOverlaps x.count x.addr = false) {f : MemFault}
    (h : (s.atCount x).loadWord x.loadAddress = .error f) :
    s.loadTransfer x =
      (((s.atCount x).faultCount x.next.val).faultAddress x.addr x.base x.count.val x.next.val).dataFault f
        (zeroExtend30 x.loadAddress) := by
  unfold State.atCount Transfer.loadAddress at h
  simp only [State.loadTransfer, h, freeOverlap_of_disjoint hover]
  rfl

theorem storeTransfer_of_ok (hover : runOverlaps x.count x.addr = false) {t : State}
    (h : ((s.wr x.addr x.storeAddress).atCount x).storeWord (addressOf x.storeAddress) (s.runValue x) = .ok t) :
    s.storeTransfer x = if x.next.val ≤ 1 then t.advance else t.runOn x := by
  unfold State.atCount Transfer.storeAddress at h
  simp only [State.storeTransfer, h, freeOverlap_of_disjoint hover]

theorem storeTransfer_of_error (hover : runOverlaps x.count x.addr = false) {f : MemFault}
    (h : ((s.wr x.addr x.storeAddress).atCount x).storeWord (addressOf x.storeAddress) (s.runValue x) = .error f) :
    s.storeTransfer x = (((s.wr x.addr x.storeAddress).atCount x).faultCount x.next.val).dataFault f
        (zeroExtend30 (addressOf x.storeAddress)) := by
  unfold State.atCount Transfer.storeAddress at h
  simp only [State.storeTransfer, h, freeOverlap_of_disjoint hover]
  rfl

end

/-- A transfer ends in Node Busy at `wa`. -/
def Transfer.Busy (s t : State) (x : Transfer) (wa : WAddr) : Prop :=
  t.AtEntry s.turn (if s.cpu.flagT then 0x11 else 0x1E) ∧
    (s.cpu.flagT = true → t.cpu.trapArg = BitVec.ofNat 32 wa.toNat) ∧
    Unchanged s t (entryParts ++ [.trapArg, .reg x.addr])

theorem Transfer.busy_of_unchanged {s u : State} {x : Transfer} (h : Unchanged s u (countParts ++ [.reg x.addr]))
    (wa : WAddr) : x.Busy s (u.dataFault .nodeBusy (zeroExtend30 wa)) wa := by
  obtain ⟨hentry, harg, hframe⟩ := dataFault_of_unchanged h (by simp [countParts]) (by simp [countParts]) .nodeBusy
    (zeroExtend30 wa)
  refine ⟨hentry, fun hT => (harg hT).trans (zeroExtend30_eq wa), hframe.mono fun p hp => ?_⟩
  have hstatus : p ∈ countParts → p ∈ entryParts := fun h => by
    simp only [countParts, List.mem_cons, List.not_mem_nil, or_false] at h
    obtain rfl | rfl | rfl | rfl := h <;> exact status_mem_entryParts _
  simp only [List.mem_append, List.mem_cons] at hp ⊢
  tauto

theorem remote_loadTransfer {s : State} {x : Transfer} (hover : runOverlaps x.count x.addr = false)
    (h : s.Remote (byteOfWord x.loadAddress) .load) :
    x.Busy s (s.loadTransfer x) x.loadAddress ∨
      (x.Moved s (s.loadTransfer x) ∧
        Unchanged s (s.loadTransfer x) (stepParts ++ [.tlb, .reg x.addr] ++ countParts ++ [.reg x.next])) := by
  have htranslate := State.translate_of_remote h
  rw [← s.translate_atCount x] at htranslate
  obtain hbusy | hdone := htranslate
  · left
    rw [loadTransfer_of_error hover (State.loadWord_of_error hbusy)]
    have hcount := (unchanged_atCount s x).trans (by simp) (unchanged_faultCount (s.atCount x) x.next.val)
    exact Transfer.busy_of_unchanged
      ((hcount.trans (by simp [State.faultCount]) (unchanged_faultAddress _ x.addr _ _ _)).mono (by simp)) _
  · right
    have hloaded := ((unchanged_atCount s x).trans (by simp) (unchanged_fillTlb _ (byteOfWord x.loadAddress))).trans
      (by simp) (unchanged_wr _ x.next (Config.freeWord (s.atCount x).tick (tagAt 7 (byteOfWord x.loadAddress))))
    rw [loadTransfer_of_ok (State.loadWord_of_remote hdone)]
    split
    · obtain ⟨u, hend, hframe⟩ := endLoads_of_disjoint hover
        (((s.atCount x).fillTlb (byteOfWord x.loadAddress)).wr x.next
          (Config.freeWord (s.atCount x).tick (tagAt 7 (byteOfWord x.loadAddress))))
      have hall := hloaded.trans (by simp) hframe
      rw [hend]
      refine ⟨Transfer.moved_advance hall (by simp [countParts]) ‹_›, ?_⟩
      refine (hall.trans (hall.turn (by simp [countParts])) (unchanged_advance u)).mono fun p hp => ?_
      simp only [List.mem_append, List.mem_cons] at hp ⊢
      tauto
    · refine ⟨Transfer.moved_runOn hloaded (by simp [countParts]) (by omega), ?_⟩
      refine (hloaded.trans (by simp) (State.runOn_waits _ x).2.2).mono fun p hp => ?_
      simp only [stepParts, List.mem_append, List.mem_cons] at hp ⊢
      tauto

theorem remote_storeTransfer {s : State} {x : Transfer} (hover : runOverlaps x.count x.addr = false)
    (h : s.Remote (byteOfWord (addressOf x.storeAddress)) .store) :
    x.Busy s (s.storeTransfer x) (addressOf x.storeAddress) ∨
      (x.Moved s (s.storeTransfer x) ∧ (s.storeTransfer x).cpu.reg x.addr = x.storeAddress ∧
        Unchanged s (s.storeTransfer x) (stepParts ++ [.tlb, .reg x.addr] ++ countParts)) := by
  have htranslate := State.translate_of_remote h
  rw [← s.translate_wr x.addr x.storeAddress, ← (s.wr x.addr x.storeAddress).translate_atCount x] at htranslate
  have hcount := unchanged_atCount (s.wr x.addr x.storeAddress) x
  have hwritten := unchanged_wr s x.addr x.storeAddress
  obtain hbusy | hdone := htranslate
  · left
    rw [storeTransfer_of_error hover (State.storeWord_of_error _ hbusy)]
    have hfault := hcount.trans (by simp) (unchanged_faultCount ((s.wr x.addr x.storeAddress).atCount x) x.next.val)
    exact Transfer.busy_of_unchanged ((hwritten.trans (by simp) hfault).mono (by simp)) _
  · right
    have hstored := hcount.trans (by simp) (unchanged_fillTlb _ (byteOfWord (addressOf x.storeAddress)))
    have hall := hwritten.trans (by simp) hstored
    rw [storeTransfer_of_ok hover (State.storeWord_of_remote _ hdone)]
    split
    · have hend := hstored.trans (hstored.turn (by simp [countParts])) (unchanged_advance _)
      refine ⟨Transfer.moved_advance hall (by simp [countParts]) ‹_›, ?_,
        (hwritten.trans (by simp) hend).mono fun p hp => ?_⟩
      · exact (hend (.reg x.addr) (by simp [countParts, stepParts])).trans (by simp)
      · simp only [List.mem_append, List.mem_cons] at hp ⊢
        tauto
    · have hend := hstored.trans (hstored.turn (by simp [countParts])) (State.runOn_waits _ x).2.2
      refine ⟨Transfer.moved_runOn hall (by simp [countParts]) (by omega), ?_,
        (hwritten.trans (by simp) hend).mono fun p hp => ?_⟩
      · exact (hend (.reg x.addr) (by simp [countParts])).trans (by simp)
      · simp only [stepParts, List.mem_append, List.mem_cons] at hp ⊢
        tauto

theorem remote_transferOne {s : State} {x : Transfer} {wa : WAddr} (hover : runOverlaps x.count x.addr = false)
    (hload : x.load = true → wa = x.loadAddress) (hstore : x.load = false → wa = addressOf x.storeAddress)
    (h : s.Remote (byteOfWord wa) (if x.load then .load else .store)) :
    x.Busy s (s.transferOne x) wa ∨
      (x.Moved s (s.transferOne x) ∧ (x.load = false → (s.transferOne x).cpu.reg x.addr = x.storeAddress) ∧
        Unchanged s (s.transferOne x) (stepParts ++ [.tlb, .reg x.addr] ++ countParts ++
          (if x.load then [.reg x.next] else []))) := by
  unfold State.transferOne
  split at h
  · rw [if_pos ‹_›, if_pos ‹_›]
    obtain rfl := hload ‹_›
    exact (remote_loadTransfer hover h).imp_right fun ⟨hmoved, hframe⟩ =>
      ⟨hmoved, fun hno => absurd hno (by simp [*]), hframe⟩
  · rw [if_neg ‹_›, if_neg ‹_›, List.append_nil]
    obtain rfl := hstore (by simp_all)
    exact (remote_storeTransfer hover h).imp_right fun ⟨hmoved, hreg, hframe⟩ => ⟨hmoved, fun _ => hreg, hframe⟩

end Sys2Proof.Machine
end

section
/-! PROOFS. Fetches from pages of other nodes (20_memory.md R87, R95, R96; L44), and O42. -/

namespace Sys2Proof.Machine

/-! ### A fetch that is refused -/

/-- PU state after a fetch from `va` that took Node Busy: SH tells which half it was of (60_exceptions.md R358). -/
def State.FetchBusy (s t : State) (va : VAddr) (half : Bool) : Prop :=
  t.AtEntry s.turn (if s.cpu.flagT then 0x11 else 0x1E) ∧
    (s.cpu.flagT = true → t.cpu.trapArg = pointerTo va ∧ t.cpu.qHead = s.cpu.pc ∧ t.cpu.qTail = s.cpu.npc ∧
      t.cpu.statusSave.getLsbD 26 = half) ∧
    Unchanged s t (entryParts ++ [.trapArg])

theorem State.dataFault_saved {s : State} (f : MemFault) (ptr : Word) (hT : s.cpu.flagT = true) :
    (s.dataFault f ptr).cpu.statusSave = s.cpu.sscr ∧ (s.dataFault f ptr).cpu.qHead = s.cpu.pc ∧
      (s.dataFault f ptr).cpu.qTail = s.cpu.npc := by
  have h := s.dataFault_takesTrap f ptr
  have hturn : (s.dataFault f ptr).turn = s.turn := by simp [dataFault]
  unfold TakesTrap at h
  rw [if_pos hT, Saved, ← hturn] at h
  exact h.2

theorem State.fetchFault_busy (s : State) (half : Bool) (h : HAddr) :
    s.FetchBusy (s.fetchFault half .nodeBusy h) (byteOfHalf h) half := by
  have hhalf : Unchanged s (s.modCpu (fun u => u.withBit bitSH half)) [.status 26] := unchanged_withBit s 26 half
  obtain ⟨hentry, harg, hframe⟩ := dataFault_of_unchanged hhalf (by simp) (by simp) .nodeBusy
    (pointerTo (byteOfHalf h))
  refine ⟨hentry, fun hT => ?_, hframe.mono (by simp [status_mem_entryParts])⟩
  have hflag : (s.modCpu (fun u => u.withBit bitSH half)).cpu.flagT = s.cpu.flagT := hhalf (.status 11) (by simp)
  obtain ⟨hstatus, hhead, htail⟩ := State.dataFault_saved .nodeBusy (pointerTo (byteOfHalf h)) (hflag.trans hT)
  refine ⟨harg hT, hhead.trans (by simp), htail.trans (by simp), ?_⟩
  refine (congrArg (fun w => w.getLsbD 26) hstatus).trans ?_
  rw [modCpu_cpu, PU.withBit_sscr, setBit_getLsbD _ _ _ _ (by decide)]
  exact if_pos rfl

section
variable {s t : State} {w : Half}

theorem State.fetchFirst_of_fault {f : MemFault} (hf : s.fetchHalf s.cpu.pc = .error f) :
    s.fetchFirst = .error (.next (s.fetchFault false f s.cpu.pc)) := by
  simp [fetchFirst, hf]

theorem State.fetchSecond_of_fault {f : MemFault} (hf : s.fetchHalf (pcAdd s.cpu.pc 1) = .error f) :
    s.fetchSecond w = .next (s.fetchFault true f (pcAdd s.cpu.pc 1)) := by
  simp [fetchSecond, hf]

theorem State.fetchFirst_of_illegal {x : Half} (hf : s.fetchHalf s.cpu.pc = .ok (w, t))
    (hd : decode s.params.opcodes [w] = .error (.illegalOpcode x)) : s.fetchFirst = .error t.illegalHalf := by
  simp [fetchFirst, hf, hd]

end

/-! ### What the halfword after the first RtI of a pair may be -/

theorem State.illegalHalf_of_pair {s : State} (h : s.cpu.rti1 = true) : s.illegalHalf = .refused .rtiPairBroken := by
  simp [illegalHalf, h]

theorem State.illegalHalf_of_alone {s : State} (h : s.cpu.rti1 = false) : s.illegalHalf = .next (s.raise numIllegal) := by
  simp [illegalHalf, h, raiseIllegal]

theorem State.holdFirst_of_pair {s : State} {w : Half} (h : s.cpu.rti1 = true) :
    s.holdFirst w = .refused .rtiPairBroken := by
  simp [holdFirst, h]

theorem State.holdFirst_of_misplaced {s : State} {w : Half} (hrti : s.cpu.rti1 = false) (h : s.cpu.misplaced = true) :
    s.holdFirst w = .refused .extendedAfterBranch := by
  simp [holdFirst, hrti, h]

theorem Instr.eq_rtI_of_form {i : Instr} (h : i.form = .rtI) : i = .rtI := by
  cases i <;> cases h
  rfl

theorem step_of_pairBroken {s t : State} {i : Instr} (hp : s.beginStep.preempt = none)
    (h : s.beginStep.fetchDecode = .ok (i, t)) (hrti : t.cpu.rti1 = true) (hi : i ≠ .rtI) :
    step s = .refused .rtiPairBroken := by
  have hpair : t.pairBroken i = true := by
    have hform : i.form ≠ .rtI := fun hf => hi (Instr.eq_rtI_of_form hf)
    simpa [State.pairBroken, hrti] using hform
  simp [step, hp, h, hpair]

/-! ### One remote fetch -/

/-- The halfword a fetch from another node answers. -/
def State.remoteHalf (s : State) (va : VAddr) : Half := (Config.freeWord s.tick (tagAt 9 va)).extractLsb' 0 16

/-- The step holds `r` as the rest of its instruction. -/
def Holds (s : State) (r : Rest) : Prop :=
  ∃ t, step s = .next (t.finishStep s.beginStep.cpu.flagU) ∧ t.event = .waiting ∧ t.cpu.run = some r ∧
    Unchanged s.beginStep t [.run, .tlb]

/-- The step takes Node Busy on a fetch from `va`. -/
def TakesFetchBusy (s : State) (va : VAddr) (half : Bool) : Prop :=
  ∃ t, step s = .next (t.finishStep s.beginStep.cpu.flagU) ∧ s.beginStep.FetchBusy t va half

section
variable {s : State} (hpre : s.beginStep.preempt = none)
include hpre

/-- A halfword is held after a fetch that filled the TLB. -/
theorem holds_of_fetchDecode {va : VAddr} {r : Rest} (h : s.beginStep.fetchDecode =
    .error (.next ((s.beginStep.fillTlb va).withRest (some r)).stay)) : Holds s r := by
  obtain ⟨hevent, hrun, hframe⟩ := (s.beginStep.fillTlb va).stay_withRest r
  exact ⟨_, step_of_fetchDecode_error hpre h, hevent, hrun,
    ((unchanged_fillTlb _ va).trans (State.fillTlb_turn ..) hframe).mono (by simp)⟩

theorem remote_fetchSecond {w : Half} (hrun : s.beginStep.cpu.run = some (.second w))
    (hremote : s.beginStep.Remote (byteOfHalf (pcAdd s.beginStep.cpu.pc 1)) .fetch) :
    TakesFetchBusy s (byteOfHalf (pcAdd s.beginStep.cpu.pc 1)) true ∨
      ∀ i rest, decode s.beginStep.params.opcodes
          [w, s.beginStep.remoteHalf (byteOfHalf (pcAdd s.beginStep.cpu.pc 1))] = .ok (i, rest) →
        Holds s (.access i) := by
  obtain hbusy | hdone := State.translate_of_remote hremote
  · refine .inl ⟨_, step_of_fetchDecode_error (o := .next _) hpre ?_, s.beginStep.fetchFault_busy true _⟩
    rw [State.fetchDecode_of_second hrun, State.fetchSecond_of_fault (State.fetchHalf_of_error hbusy)]
  · refine .inr fun i rest hdec => holds_of_fetchDecode hpre
      (va := byteOfHalf (pcAdd s.beginStep.cpu.pc 1)) ?_
    rw [State.fetchDecode_of_second hrun, State.fetchSecond_of_decode (State.fetchHalf_of_remote hdone) hdec]

theorem remote_fetchFirst (hrun : s.beginStep.cpu.run = none)
    (hremote : s.beginStep.Remote (byteOfHalf s.beginStep.cpu.pc) .fetch) :
    TakesFetchBusy s (byteOfHalf s.beginStep.cpu.pc) false ∨
      s.beginStep.fetchHalf s.beginStep.cpu.pc = .ok (s.beginStep.remoteHalf (byteOfHalf s.beginStep.cpu.pc),
        s.beginStep.fillTlb (byteOfHalf s.beginStep.cpu.pc)) := by
  obtain hbusy | hdone := State.translate_of_remote hremote
  · refine .inl ⟨_, step_of_fetchDecode_error (o := .next _) hpre ?_, s.beginStep.fetchFault_busy false _⟩
    rw [State.fetchDecode_of_idle hrun, State.fetchFirst_of_fault (State.fetchHalf_of_error hbusy)]
  · exact .inr (State.fetchHalf_of_remote hdone)

section
variable (hrun : s.beginStep.cpu.run = none) {va : VAddr} {w : Half}
  (hfetch : s.beginStep.fetchHalf s.beginStep.cpu.pc = .ok (w, s.beginStep.fillTlb va))
include hrun hfetch

theorem step_of_fetched_instr {i : Instr} {rest : List Half}
    (hdec : decode s.beginStep.params.opcodes [w] = .ok (i, rest)) :
    ((s.beginStep.cpu.rti1 = true → i = .rtI) →
        step s = ended (exec i (s.beginStep.fillTlb va)) s.beginStep.cpu.flagU) ∧
      (s.beginStep.cpu.rti1 = true → i ≠ .rtI → step s = .refused .rtiPairBroken) := by
  have hdecoded : s.beginStep.fetchDecode = .ok (i, s.beginStep.fillTlb va) := by
    rw [State.fetchDecode_of_idle hrun]
    exact State.fetchFirst_of_decode hfetch hdec
  exact ⟨fun hpair => step_of_fetchDecode_ok hpre hdecoded (State.pairBroken_eq_false (by simpa using hpair)),
    fun hrti hi => step_of_pairBroken hpre hdecoded (by simpa using hrti) hi⟩

theorem step_of_fetched_illegal {x : Half}
    (hdec : decode s.beginStep.params.opcodes [w] = .error (.illegalOpcode x)) :
    (s.beginStep.cpu.rti1 = false → ∃ t, step s = .next (t.finishStep s.beginStep.cpu.flagU) ∧
        t.AtEntry s.beginStep.turn (if s.beginStep.cpu.flagT then 0x16 else 0x1E) ∧
        (s.beginStep.cpu.flagT = true →
          t.Saved s.beginStep.turn s.beginStep.cpu.sscr s.beginStep.cpu.pc s.beginStep.cpu.npc) ∧
        Unchanged s.beginStep t (entryParts ++ [.tlb])) ∧
      (s.beginStep.cpu.rti1 = true → step s = .refused .rtiPairBroken) := by
  have hstep := step_of_fetchDecode_error hpre
    ((State.fetchDecode_of_idle hrun).trans (State.fetchFirst_of_illegal hfetch hdec))
  refine ⟨fun hrti => ⟨(s.beginStep.fillTlb va).raise numIllegal, ?_, ?_⟩, fun hrti => ?_⟩
  · rw [hstep, State.illegalHalf_of_alone (by simpa using hrti)]
    rfl
  · have htrap : TakesTrap s.beginStep _ _ := ((s.beginStep.fillTlb va).raise_takesTrap numIllegal).of_same
      (State.fillTlb_turn ..) (by simp) (by simp) (by simp)
    refine ⟨htrap.atEntry, fun hT => ?_, ?_⟩
    · unfold TakesTrap at htrap
      rw [if_pos hT] at htrap
      exact htrap.2
    · exact ((unchanged_fillTlb _ va).trans (State.fillTlb_turn ..)
        (unchanged_raise _ (by decide) (by decide))).mono (by simp)
  · rw [hstep, State.illegalHalf_of_pair (by simpa using hrti)]
    rfl

theorem step_of_fetched_half (hdec : decode s.beginStep.params.opcodes [w] = .error .truncated) :
    (s.beginStep.cpu.rti1 = false → s.beginStep.cpu.misplaced = false → Holds s (.second w)) ∧
      (s.beginStep.cpu.rti1 = false → s.beginStep.cpu.misplaced = true → step s = .refused .extendedAfterBranch) ∧
      (s.beginStep.cpu.rti1 = true → step s = .refused .rtiPairBroken) := by
  have hheld := (State.fetchDecode_of_idle hrun).trans (State.fetchFirst_of_truncated hfetch hdec)
  have hstep := step_of_fetchDecode_error hpre hheld
  refine ⟨fun hrti hplace => holds_of_fetchDecode (va := va) hpre ?_, fun hrti hplace => ?_, fun hrti => ?_⟩
  · rw [hheld, State.holdFirst_of_placed (by simpa using hrti) (by simpa using hplace)]
  · rw [hstep, State.holdFirst_of_misplaced (by simpa using hrti) (by simpa using hplace)]
    rfl
  · rw [hstep, State.holdFirst_of_pair (by simpa using hrti)]
    rfl

end
end

/-- Settles O42: one clause for each kind of access. -/
theorem remoteAccesses : Obligations.RemoteAccesses := by
  refine ⟨fun _ _ _ _ _ => remote_wordAccess, fun _ _ _ _ _ => remote_byteAccess,
    fun s x wa _ _ hover hload hstore hremote => ?_, ?_⟩
  · exact (remote_transferOne hover hload hstore hremote).imp_right fun ⟨⟨hmore, hlast⟩, hreg, hframe⟩ =>
      ⟨hmore, fun hone => hlast hone.le, hreg, hframe⟩
  · intro s s0 va vb answer busy holds hacc hw hs hf
    have hgo : (∀ x, s0.cpu.run ≠ some (.move x)) → s0.preempt = none := fun h =>
      State.preempt_eq_none hacc (State.moving_eq_false h) hw hs hf
    refine ⟨fun hrun hremote => ?_, fun w hrun hremote => ?_⟩
    · have hpre := hgo (by simp [hrun])
      exact (remote_fetchFirst hpre hrun hremote).imp_right fun hfetch =>
        ⟨fun _ _ => step_of_fetched_instr hpre hrun hfetch, fun _ => step_of_fetched_illegal hpre hrun hfetch,
          step_of_fetched_half hpre hrun hfetch⟩
    · exact remote_fetchSecond (hgo (by simp [hrun])) hrun hremote

end Sys2Proof.Machine
end

section
/-! PROOFS. Fields of a halfword (30_encoding.md R125, R130; L2): the operand fields of every format are the low bits
of the halfword cut into adjacent pieces, so placing fields and reading them undo each other. -/

namespace Sys2Proof

/-! ### Codes in a four-bit field (10_state.md R48, R65) -/

@[simp] theorem Cc.ofField_field (c : Cc) : Cc.ofField c.field = c := by
  cases c <;> rfl

@[simp] theorem Cc.field_ofField (n : Fin 16) : (Cc.ofField n).field = n := by
  fin_cases n <;> rfl

@[simp] theorem SReg.ofField_field (r : SReg) : SReg.ofField r.field = r := by
  cases r <;> rfl

@[simp] theorem SReg.field_ofField (n : Fin 16) : (SReg.ofField n).field = n := by
  fin_cases n <;> rfl

theorem ofNat_toFin_val {n : Nat} (v : BitVec n) : BitVec.ofNat n v.toFin.val = v := by
  rw [BitVec.val_toFin, BitVec.ofNat_toNat, BitVec.setWidth_eq]

theorem toFin_ofNat_val {n : Nat} (v : Fin (2 ^ n)) : (BitVec.ofNat n v.val).toFin = v := by
  simp

theorem toFin_bits4 (n : Fin 16) : (bits4 n).toFin = n :=
  toFin_ofNat_val (n := 4) n

theorem bits4_nibble (w : Half) (lo : Nat) : bits4 (nibble w lo) = w.extractLsb' lo 4 :=
  ofNat_toFin_val _

/-! ### Ranges of operands (30_encoding.md R130), as what a field of `n` bits can hold -/

theorem immOk_iff {n : Nat} : immOk n = true ↔ 1 ≤ n ∧ n ≤ 2 ^ 8 := by
  simp [immOk]

theorem imm4Ok_iff {n : Nat} : imm4Ok n = true ↔ 1 ≤ n ∧ n ≤ 2 ^ 4 := by
  simp [imm4Ok]

theorem disp6Ok_iff {n : Nat} : disp6Ok n = true ↔ 1 ≤ n ∧ n ≤ 2 ^ 6 := by
  simp [disp6Ok]

theorem disp16Ok_iff {n : Nat} : disp16Ok n = true ↔ 1 ≤ n ∧ n ≤ 2 ^ 16 := by
  simp [disp16Ok]

theorem lenOk_iff {n : Nat} : lenOk n = true ↔ 1 ≤ n ∧ n ≤ 2 ^ 5 := by
  simp [lenOk]

theorem disp8Ok_iff {n : Nat} : disp8Ok n = true ↔ n < 2 ^ 8 := by
  simp [disp8Ok, Nat.lt_succ_iff]

theorem disp9Ok_iff {d : Int} : disp9Ok d = true ↔ -2 ^ 8 ≤ d ∧ d < 2 ^ 8 := by
  simp only [disp9Ok, Bool.and_eq_true, decide_eq_true_eq]
  omega

theorem disp12Ok_iff {d : Int} : disp12Ok d = true ↔ -2 ^ 11 ≤ d ∧ d < 2 ^ 11 := by
  simp only [disp12Ok, Bool.and_eq_true, decide_eq_true_eq]
  omega

/-- A field that holds its operand less one. -/
theorem toNat_ofNat_pred_succ {n k : Nat} (h : 1 ≤ k ∧ k ≤ 2 ^ n) : (BitVec.ofNat n (k - 1)).toNat + 1 = k := by
  rw [BitVec.toNat_ofNat, Nat.mod_eq_of_lt (by omega), Nat.sub_add_cancel h.1]

theorem toNat_succ_range {n : Nat} (v : BitVec n) : 1 ≤ v.toNat + 1 ∧ v.toNat + 1 ≤ 2 ^ n :=
  ⟨Nat.le_add_left .., v.isLt⟩

theorem toInt_ofInt_of_disp9Ok {d : Int} (h : disp9Ok d = true) : (BitVec.ofInt 9 d).toInt = d :=
  have ⟨hlow, hhigh⟩ := disp9Ok_iff.mp h
  BitVec.toInt_ofInt_eq_self (by decide) hlow hhigh

theorem toInt_ofInt_of_disp12Ok {d : Int} (h : disp12Ok d = true) : (BitVec.ofInt 12 d).toInt = d :=
  have ⟨hlow, hhigh⟩ := disp12Ok_iff.mp h
  BitVec.toInt_ofInt_eq_self (by decide) hlow hhigh

/-! ### Adjacent pieces make up the halfword -/

theorem append_three_fields {a b c : Nat} (w : BitVec (a + b + c)) :
    w.extractLsb' (c + b) a ++ w.extractLsb' c b ++ w.extractLsb' 0 c = w := by
  rw [BitVec.extractLsb'_append_extractLsb'_eq_extractLsb' rfl,
    BitVec.extractLsb'_append_extractLsb'_eq_extractLsb' (Nat.zero_add c).symm, BitVec.extractLsb'_eq_self]

theorem append_four_fields {a b c d : Nat} (w : BitVec (a + b + c + d)) :
    w.extractLsb' (d + c + b) a ++ w.extractLsb' (d + c) b ++ w.extractLsb' d c ++ w.extractLsb' 0 d = w := by
  rw [BitVec.extractLsb'_append_extractLsb'_eq_extractLsb' rfl, append_three_fields]

theorem append_five_fields {a b c d e : Nat} (w : BitVec (a + b + c + d + e)) :
    w.extractLsb' (e + d + c + b) a ++ w.extractLsb' (e + d + c) b ++ w.extractLsb' (e + d) c ++
      w.extractLsb' e d ++ w.extractLsb' 0 e = w := by
  rw [BitVec.extractLsb'_append_extractLsb'_eq_extractLsb' rfl, append_four_fields]

/-! ### Fields read from a halfword with no opcode bits, and placed again -/

section
variable {w : Half}

theorem placeBA_fields (h : w.extractLsb' 8 8 = 0#8) : placeBA (fieldB w) (fieldA w) = w := by
  rw [placeBA, fieldB, fieldA, bits4_nibble, bits4_nibble, ← h]
  exact append_three_fields (a := 8) (b := 4) (c := 4) w

theorem placeA_fieldA (h : w.extractLsb' 4 12 = 0#12) : placeA (fieldA w) = w := by
  rw [placeA, fieldA, bits4_nibble, ← h]
  exact BitVec.extractLsb'_append_extractLsb'

theorem placeImm8_fields (h : w.extractLsb' 12 4 = 0#4) :
    placeImm8 (fieldB w) (BitVec.ofNat 8 (splitImm8 w)) = w := by
  rw [placeImm8, splitImm8, BitVec.ofNat_toNat, BitVec.setWidth_eq, BitVec.extractLsb'_append_eq_left,
    BitVec.extractLsb'_append_eq_right, fieldB, bits4_nibble, ← h]
  exact append_four_fields (a := 4) (b := 4) (c := 4) (d := 4) w

theorem placeBase_fields (h : w.extractLsb' 12 4 = 0#4) :
    placeBase (fieldB w) (fieldBase w) (BitVec.ofNat 6 (splitDisp6 w)) = w := by
  rw [placeBase, splitDisp6, BitVec.ofNat_toNat, BitVec.setWidth_eq, BitVec.extractLsb'_append_eq_left,
    BitVec.extractLsb'_append_eq_right, fieldB, bits4_nibble, fieldBase, ofNat_toFin_val, ← h]
  exact append_five_fields (a := 4) (b := 4) (c := 4) (d := 2) (e := 2) w

theorem operands_bcc_fields (h : w.extractLsb' 13 3 = 0#3) :
    (Instr.bcc (Cc.ofField (nibble w 9)) (signed9 w)).operands = w := by
  rw [Instr.operands, Cc.field_ofField, bits4_nibble, signed9, BitVec.ofInt_toInt, ← h]
  exact append_three_fields (a := 3) (b := 4) (c := 9) w

theorem operands_jmpR_field (h : w.extractLsb' 12 4 = 0#4) :
    (Instr.jmpR (w.extractLsb' 0 12).toInt).operands = w := by
  rw [Instr.operands, BitVec.ofInt_toInt, ← h]
  exact BitVec.extractLsb'_append_extractLsb'

theorem operands_picR_field (h : w.extractLsb' 9 7 = 0#7) : (Instr.picR (signed9 w)).operands = w := by
  rw [Instr.operands, signed9, BitVec.ofInt_toInt, ← h]
  exact BitVec.extractLsb'_append_extractLsb'

theorem operands_mskI_fields (h : w.extractLsb' 10 6 = 0#6) :
    (Instr.mskI (w.extractLsb' 5 5).toFin ((w.extractLsb' 0 5).toNat + 1)).operands = w := by
  rw [Instr.operands, ofNat_toFin_val, Nat.add_sub_cancel, BitVec.ofNat_toNat, BitVec.setWidth_eq, ← h]
  exact append_three_fields (a := 6) (b := 5) (c := 5) w

/-- The fields of ShR, and of Msk with the length less one in place of the amount. -/
theorem operands_shR_fields (h : w.extractLsb' 9 7 = 0#7) :
    (Instr.shR (fieldA w) (w.extractLsb' 4 5).toFin).operands = w := by
  rw [Instr.operands, ofNat_toFin_val, fieldA, bits4_nibble, ← h]
  exact append_three_fields (a := 7) (b := 5) (c := 4) w

/-- ShL holds 32 less its amount, modulo 32. -/
theorem ofNat_sub_amount (w : Half) :
    BitVec.ofNat 5 (32 - (Fin.ofNat 32 (32 - splitAmt5 w)).val) = w.extractLsb' 8 1 ++ w.extractLsb' 0 4 := by
  have hfield : (w.extractLsb' 8 1 ++ w.extractLsb' 0 4).toNat = splitAmt5 w := rfl
  have hlt : splitAmt5 w < 2 ^ (1 + 4) := BitVec.isLt _
  apply BitVec.eq_of_toNat_eq
  rw [hfield, BitVec.toNat_ofNat, Fin.val_ofNat]
  omega

theorem operands_shL_fields (h : w.extractLsb' 9 7 = 0#7) :
    (Instr.shL (fieldB w) (Fin.ofNat 32 (32 - splitAmt5 w))).operands = w := by
  rw [Instr.operands, ofNat_sub_amount, BitVec.extractLsb'_append_eq_left, BitVec.extractLsb'_append_eq_right,
    fieldB, bits4_nibble, ← h]
  exact append_four_fields (a := 7) (b := 1) (c := 4) (d := 4) w

end

/-! ### Fields read where they were placed -/

@[simp] theorem fieldB_placeBA (b a : Fin 16) : fieldB (placeBA b a) = b := by
  rw [fieldB, nibble, placeBA, BitVec.extractLsb'_append_eq_of_le (by decide), BitVec.extractLsb'_append_eq_right,
    toFin_bits4]

@[simp] theorem fieldA_placeBA (b a : Fin 16) : fieldA (placeBA b a) = a := by
  rw [fieldA, nibble, placeBA, BitVec.extractLsb'_append_eq_right, toFin_bits4]

@[simp] theorem fieldA_placeA (a : Fin 16) : fieldA (placeA a) = a := by
  rw [fieldA, nibble, placeA, BitVec.extractLsb'_append_eq_right, toFin_bits4]

@[simp] theorem puMask_placeBA (b : Fin 16) (m : BitVec 4) : (placeBA b m.toFin).extractLsb' 0 4 = m := by
  rw [placeBA, BitVec.extractLsb'_append_eq_right]
  exact ofNat_toFin_val m

@[simp] theorem puMask_placeA (m : BitVec 4) : (placeA m.toFin).extractLsb' 0 4 = m := by
  rw [placeA, BitVec.extractLsb'_append_eq_right]
  exact ofNat_toFin_val m

@[simp] theorem fieldB_placeImm8 (b : Fin 16) (v : BitVec 8) : fieldB (placeImm8 b v) = b := by
  rw [fieldB, nibble, placeImm8, BitVec.extractLsb'_append_eq_of_le (by decide), BitVec.extractLsb'_append_eq_right,
    toFin_bits4]

@[simp] theorem splitImm8_placeImm8 (b : Fin 16) (v : BitVec 8) : splitImm8 (placeImm8 b v) = v.toNat := by
  simp (disch := decide) only [splitImm8, placeImm8, BitVec.extractLsb'_append_eq_of_le,
    BitVec.extractLsb'_append_eq_right, Nat.reduceSub]
  exact congrArg BitVec.toNat (BitVec.extractLsb'_append_extractLsb' (w := 4) (len := 4))

@[simp] theorem fieldB_placeBase (b : Fin 16) (base : Fin 4) (v : BitVec 6) : fieldB (placeBase b base v) = b := by
  simp (disch := decide) only [fieldB, nibble, placeBase, BitVec.extractLsb'_append_eq_of_le,
    BitVec.extractLsb'_append_eq_right, Nat.reduceSub, toFin_bits4]

@[simp] theorem fieldBase_placeBase (b : Fin 16) (base : Fin 4) (v : BitVec 6) :
    fieldBase (placeBase b base v) = base := by
  rw [fieldBase, placeBase, BitVec.extractLsb'_append_eq_right]
  exact toFin_ofNat_val (n := 2) base

@[simp] theorem splitDisp6_placeBase (b : Fin 16) (base : Fin 4) (v : BitVec 6) :
    splitDisp6 (placeBase b base v) = v.toNat := by
  simp (disch := decide) only [splitDisp6, placeBase, BitVec.extractLsb'_append_eq_of_le,
    BitVec.extractLsb'_append_eq_right, Nat.reduceSub]
  exact congrArg BitVec.toNat (BitVec.extractLsb'_append_extractLsb' (w := 4) (len := 2))

theorem fieldB_shL (rb : Reg) (amt : Fin 32) : fieldB (Instr.shL rb amt).operands = rb := by
  simp (disch := decide) only [Instr.operands, fieldB, nibble, BitVec.extractLsb'_append_eq_of_le,
    BitVec.extractLsb'_append_eq_right, Nat.reduceSub, toFin_bits4]

theorem sub_splitAmt5_shL (rb : Reg) (amt : Fin 32) :
    Fin.ofNat 32 (32 - splitAmt5 (Instr.shL rb amt).operands) = amt := by
  simp (disch := decide) only [Instr.operands, splitAmt5, BitVec.extractLsb'_append_eq_of_le,
    BitVec.extractLsb'_append_eq_right, Nat.reduceSub]
  rw [BitVec.extractLsb'_append_extractLsb' (w := 1) (len := 4), BitVec.toNat_ofNat]
  apply Fin.ext
  rw [Fin.val_ofNat]
  omega

end Sys2Proof
end

section
/-! PROOFS. A form reads its operands back from the bits an instruction places them in, and the reverse
(30_encoding.md R130, R135). -/

namespace Sys2Proof

/-! ### Opcode bits and operand bits of a halfword -/

theorem extractLsb'_and_of_ones {w m : Half} {lo len : Nat} (h : m.extractLsb' lo len = BitVec.allOnes len) :
    (w &&& m).extractLsb' lo len = w.extractLsb' lo len := by
  rw [BitVec.extractLsb'_and, h, BitVec.and_allOnes]

theorem extractLsb'_and_of_zero {w m : Half} {lo len : Nat} (h : m.extractLsb' lo len = 0#len) :
    (w &&& m).extractLsb' lo len = 0#len := by
  rw [BitVec.extractLsb'_and, h, BitVec.and_zero]

theorem and_or_and_not (w m : Half) : w &&& m ||| w &&& ~~~m = w := by
  rw [← BitVec.and_or_distrib_left, BitVec.or_not_self, BitVec.and_allOnes]

section
variable {b o m : Half} (hb : b &&& ~~~m = 0#16) (ho : o &&& ~~~m = o)
include hb ho

theorem or_and_mask : (b ||| o) &&& m = b := by
  have hin : b &&& m = b := by simpa [hb] using and_or_and_not b m
  have hout : o &&& m = 0#16 := by
    rw [← ho, BitVec.and_assoc, BitVec.not_and_self]
    exact BitVec.and_zero
  rw [BitVec.and_or_distrib_right, hin, hout, BitVec.or_zero]

theorem or_and_not_mask : (b ||| o) &&& ~~~m = o := by
  rw [BitVec.and_or_distrib_right, hb, ho, BitVec.zero_or]

end

/-! ### The instruction a form reads -/

/-- What a form reads of a halfword lies outside its opcode bits. -/
theorem Form.build_and (f : Form) (w x : Half) : f.build (w &&& ~~~f.mask) x = f.build w x := by
  cases f <;> simp (disch := decide) only [build, fieldB, fieldA, fieldBase, nibble, splitImm8, splitDisp6,
    splitAmt5, signed9, extractLsb'_and_of_ones]

@[simp] theorem Form.form_build (f : Form) (w x : Half) : (f.build w x).form = f := by
  cases f <;> rfl

theorem Form.second_build (f : Form) (w x : Half) : (f.build w x).second = if f.extended then [x] else [] := by
  cases f with
  | ldWE | stWE =>
    show [BitVec.ofNat 16 x.toNat] = [x]
    rw [BitVec.ofNat_toNat, BitVec.setWidth_eq]
  | _ => rfl

theorem Form.wf_build (f : Form) (w x : Half) : (f.build w x).wf = true := by
  cases f with
  | addI | cmpI | ld => exact immOk_iff.mpr (toNat_succ_range _)
  | subI => exact imm4Ok_iff.mpr (toNat_succ_range (w.extractLsb' 0 4))
  | bcc | picR => exact disp9Ok_iff.mpr ⟨BitVec.le_toInt _, BitVec.toInt_lt⟩
  | jmpR => exact disp12Ok_iff.mpr ⟨BitVec.le_toInt _, BitVec.toInt_lt⟩
  | ldWB | stWB => exact disp6Ok_iff.mpr (toNat_succ_range _)
  | ldWD | stWD => exact disp8Ok_iff.mpr (BitVec.isLt _)
  | ldWE | stWE => exact disp16Ok_iff.mpr (toNat_succ_range _)
  | mskI | mskR => exact lenOk_iff.mpr (toNat_succ_range _)
  | _ => rfl

/-- What a form reads is placed where it was read: one case for each format (R140). -/
theorem Form.operands_build (f : Form) (w x : Half) : (f.build w x).operands = w &&& ~~~f.mask := by
  rw [← build_and]
  cases f with
  | adCP | add | addC | addP | and | andC | clz | cmp | cmpP | dep | div | dSh | extS | extU | ins | ldB | ldM | ldWR
  | ldWE | mov | mul | mulP | neg | not | or | rdtx | sbCP | send | stB | stM | strt | stWR | stWE | sub | subC | subP
  | xOr => exact placeBA_fields (extractLsb'_and_of_zero (by decide))
  | lcc | movTS | movFS | subI =>
    simpa [build, Instr.operands] using placeBA_fields (extractLsb'_and_of_zero (by decide))
  | adPC | cdc | clrF | clrM | fdc | idc | iic | int | jmpA | jmpL | ldCP | pdc | picA | res | rsm | setF | setM | trap
  | tstF | tstM | udc | vdc | wait => exact placeA_fieldA (extractLsb'_and_of_zero (by decide))
  | skcc => simpa [build, Instr.operands] using placeA_fieldA (extractLsb'_and_of_zero (by decide))
  | addI | cmpI | ld | ldWD | stWD => exact placeImm8_fields (extractLsb'_and_of_zero (by decide))
  | ldWB | stWB => exact placeBase_fields (extractLsb'_and_of_zero (by decide))
  | bcc => exact operands_bcc_fields (extractLsb'_and_of_zero (by decide))
  | jmpR => exact operands_jmpR_field (extractLsb'_and_of_zero (by decide))
  | picR => exact operands_picR_field (extractLsb'_and_of_zero (by decide))
  | mskI => exact operands_mskI_fields (extractLsb'_and_of_zero (by decide))
  | mskR | shR => exact operands_shR_fields (extractLsb'_and_of_zero (by decide))
  | shL => exact operands_shL_fields (extractLsb'_and_of_zero (by decide))
  | iicA | itlb | rtI => exact BitVec.and_zero.symm

/-! ### The words an instruction places -/

/-- Of every instruction what `Laws.OperandBits` says of each constructor (R135). -/
theorem Instr.length_second (i : Instr) : i.second.length = if i.form.extended then 1 else 0 := by
  cases i <;> rfl

/-- What an instruction places its form reads back: a case for each format and each range of operands (R130). -/
theorem Instr.build_operands (i : Instr) (h : i.wf = true) : i.form.build i.operands (i.second.headD 0) = i := by
  cases i with
  | adCP _ _ | add _ _ | addC _ _ | addP _ _ | and _ _ | andC _ _ | clz _ _ | cmp _ _ | cmpP _ _ | dep _ _
  | div _ _ | dSh _ _ | extS _ _ | extU _ _ | ins _ _ | ldB _ _ | ldM _ _ | ldWR _ _ | mov _ _ | mul _ _ | mulP _ _
  | neg _ _ | not _ _ | or _ _ | rdtx _ _ | sbCP _ _ | stB _ _ | stM _ _ | stWR _ _ | sub _ _ | subC _ _
  | subP _ _ | xOr _ _ | lcc _ _ | movTS _ _ | movFS _ _ | send _ _ | strt _ _ => simp [form, operands, Form.build]
  | adPC _ | cdc _ | clrF _ | clrM _ | fdc _ | idc _ | iic _ | jmpA _ | jmpL _ | ldCP _ | pdc _ | picA _
  | setF _ | setM _ | trap _ | tstF _ | tstM _ | udc _ | vdc _ | skcc _ | int _ | res _ | rsm _ | wait _ =>
    simp [form, operands, Form.build]
  | iicA | itlb | rtI => rfl
  | addI _ _ | cmpI _ _ | ld _ _ =>
    simp only [form, operands, Form.build, fieldB_placeImm8, splitImm8_placeImm8,
      toNat_ofNat_pred_succ (immOk_iff.mp h)]
  | ldWD _ _ | stWD _ _ =>
    simp only [form, operands, Form.build, fieldB_placeImm8, splitImm8_placeImm8, BitVec.toNat_ofNat,
      Nat.mod_eq_of_lt (disp8Ok_iff.mp h)]
  | subI rb n =>
    have himm : (Fin.ofNat 16 (n - 1)).val + 1 = n := toNat_ofNat_pred_succ (imm4Ok_iff.mp h)
    simp only [form, operands, Form.build, fieldB_placeBA, fieldA_placeBA, himm]
  | ldWB _ _ _ | stWB _ _ _ =>
    simp only [form, operands, Form.build, fieldB_placeBase, fieldBase_placeBase, splitDisp6_placeBase,
      toNat_ofNat_pred_succ (disp6Ok_iff.mp h)]
  | ldWE _ _ _ | stWE _ _ _ =>
    simp only [form, operands, Form.build, fieldB_placeBA, fieldA_placeBA, second, List.headD_cons,
      toNat_ofNat_pred_succ (disp16Ok_iff.mp h)]
  | bcc _ _ =>
    simp (disch := decide) only [form, operands, Form.build, nibble, signed9, BitVec.extractLsb'_append_eq_of_le,
      BitVec.extractLsb'_append_eq_right, Nat.reduceSub, toFin_bits4, Cc.ofField_field, toInt_ofInt_of_disp9Ok h]
  | picR _ =>
    simp only [form, operands, Form.build, signed9, BitVec.extractLsb'_append_eq_right, toInt_ofInt_of_disp9Ok h]
  | jmpR _ =>
    simp only [form, operands, Form.build, BitVec.extractLsb'_append_eq_right, toInt_ofInt_of_disp12Ok h]
  | mskI pos _ =>
    simp (disch := decide) only [form, operands, Form.build, BitVec.extractLsb'_append_eq_of_le,
      BitVec.extractLsb'_append_eq_right, Nat.reduceSub, toNat_ofNat_pred_succ (lenOk_iff.mp h)]
    rw [toFin_ofNat_val (n := 5) pos]
  | mskR _ _ =>
    simp (disch := decide) only [form, operands, Form.build, fieldA, nibble, BitVec.extractLsb'_append_eq_of_le,
      BitVec.extractLsb'_append_eq_right, Nat.reduceSub, toFin_bits4, toNat_ofNat_pred_succ (lenOk_iff.mp h)]
  | shR _ amt =>
    simp (disch := decide) only [form, operands, Form.build, fieldA, nibble, BitVec.extractLsb'_append_eq_of_le,
      BitVec.extractLsb'_append_eq_right, Nat.reduceSub, toFin_bits4]
    rw [toFin_ofNat_val (n := 5) amt]
  | shL rb amt => rw [form, Form.build, fieldB_shL, sub_splitAmt5_shL]

/-- A well-formed instruction places its operands outside its opcode bits. -/
theorem Instr.operands_and_not_mask {i : Instr} (h : i.wf = true) : i.operands &&& ~~~i.form.mask = i.operands := by
  rw [← Form.operands_build, i.build_operands h]

end Sys2Proof
end

section
/-! PROOFS. Opcode tables and decoding (30_encoding.md R121, R122, R137), and the statements about them. -/

namespace Sys2Proof

/-! ### Legal opcode tables (R122) -/

theorem Form.mem_all (f : Form) : f ∈ Form.all := by
  cases f <;> decide

theorem OpcodeRow.apart_symm {r q : OpcodeRow} (h : r.apart q = true) : q.apart r = true := by
  unfold apart at h ⊢
  rwa [bne_comm, BitVec.and_comm q.form.mask, BitVec.xor_comm]

namespace Opcodes

theorem legal_iff {t : Opcodes} : t.legal = true ↔ (∀ f, ∃ r ∈ t, r.form = f) ∧
    (∀ r ∈ t, r.bits &&& ~~~r.form.mask = 0#16) ∧ t.Pairwise (fun r q => r.apart q = true) := by
  simp [legal, Form.mem_all, and_assoc]

theorem formOf_eq_none {t : Opcodes} {w : Half} (h : ∀ r ∈ t, w &&& r.form.mask ≠ r.bits) : t.formOf w = none := by
  have hnone : t.find? (fun r => w &&& r.form.mask == r.bits) = none :=
    List.find?_eq_none.mpr fun r hr => by simpa using h r hr
  simp [formOf, hnone]

section
variable {t : Opcodes} (ht : t.legal = true)
include ht

theorem apart_of_ne {r q : OpcodeRow} (hr : r ∈ t) (hq : q ∈ t) (hne : r ≠ q) : r.apart q = true := by
  have : Std.Symm (fun r q : OpcodeRow => r.apart q = true) := ⟨fun _ _ => OpcodeRow.apart_symm⟩
  obtain ⟨-, -, hpairwise⟩ := legal_iff.mp ht
  exact hpairwise.forall hr hq hne

theorem eq_of_form_eq {r q : OpcodeRow} (hr : r ∈ t) (hq : q ∈ t) (h : r.form = q.form) : r = q := by
  by_contra hne
  have hapart := apart_of_ne ht hr hq hne
  simp [OpcodeRow.apart, h] at hapart

/-- A halfword has the fixed bits of one row only: two rows disagree in a bit that both fix. -/
theorem eq_of_match {r q : OpcodeRow} (hr : r ∈ t) (hq : q ∈ t) {w : Half} (hwr : w &&& r.form.mask = r.bits)
    (hwq : w &&& q.form.mask = q.bits) : r = q := by
  by_contra hne
  have hapart := apart_of_ne ht hr hq hne
  have hagree : r.form.mask &&& q.form.mask &&& (r.bits ^^^ q.bits) = 0#16 := by
    rw [← hwr, ← hwq]
    ext k
    grind
  simp [OpcodeRow.apart, hagree] at hapart

theorem exists_row (f : Form) : ∃ r ∈ t, r.form = f ∧ t.bitsOf f = r.bits := by
  obtain ⟨hall, -⟩ := legal_iff.mp ht
  obtain ⟨r, hr, rfl⟩ := hall f
  unfold bitsOf
  split
  · rename_i q hfound
    exact ⟨q, List.mem_of_find?_eq_some hfound, by simpa using List.find?_some hfound, rfl⟩
  · rename_i hnone
    exact absurd (List.find?_eq_none.mp hnone r hr) (by simp)

theorem bitsOf_and_not_mask (f : Form) : t.bitsOf f &&& ~~~f.mask = 0#16 := by
  obtain ⟨r, hr, rfl, hbits⟩ := exists_row ht f
  obtain ⟨-, hfixed, -⟩ := legal_iff.mp ht
  rw [hbits, hfixed r hr]

/-- The form of a halfword is the one whose fixed bits it has. -/
theorem formOf_eq_some_iff {w : Half} {f : Form} : t.formOf w = some f ↔ w &&& f.mask = t.bitsOf f := by
  obtain ⟨r, hr, rfl, hbits⟩ := exists_row ht f
  rw [hbits]
  unfold formOf
  split
  · rename_i q hfound
    have hq := List.mem_of_find?_eq_some hfound
    have hmatch : w &&& q.form.mask = q.bits := by simpa using List.find?_some hfound
    refine ⟨fun h => ?_, fun h => ?_⟩
    · rwa [← eq_of_form_eq ht hq hr (Option.some.inj h)]
    · rw [eq_of_match ht hq hr hmatch h]
  · rename_i hnone
    simpa using List.find?_eq_none.mp hnone r hr

theorem formOf_encode {i : Instr} (h : i.wf = true) : t.formOf (t.bitsOf i.form ||| i.operands) = some i.form :=
  (formOf_eq_some_iff ht).mpr (or_and_mask (bitsOf_and_not_mask ht i.form) (Instr.operands_and_not_mask h))

end

end Opcodes

/-! ### What decoding answers (R120, R135, R137) -/

theorem decode_of_formOf {t : Opcodes} {w : Half} {f : Form} (hf : t.formOf w = some f) {second : List Half}
    (hlen : second.length = if f.extended then 1 else 0) (rest : List Half) :
    decode t (w :: second ++ rest) = .ok (f.build w (second.headD 0), rest) := by
  cases hext : f.extended with
  | true =>
    obtain ⟨x, rfl⟩ := List.length_eq_one_iff.mp (by simpa [hext] using hlen)
    simp [decode, hf, hext]
  | false =>
    obtain rfl := List.length_eq_zero_iff.mp (by simpa [hext] using hlen)
    simp [decode, hf, hext]

theorem decode_eq_ok {t : Opcodes} {ws rest : List Half} {i : Instr} (h : decode t ws = .ok (i, rest)) :
    ∃ w x f, t.formOf w = some f ∧ i = f.build w x ∧ ws = w :: i.second ++ rest := by
  cases ws with
  | nil => cases h
  | cons w ws =>
    cases hf : t.formOf w with
    | none => simp [decode, hf] at h
    | some f =>
      cases hext : f.extended with
      | false =>
        obtain ⟨rfl, rfl⟩ : f.build w 0 = i ∧ ws = rest := by simpa [decode, hf, hext] using h
        exact ⟨w, 0, f, hf, rfl, by simp [Form.second_build, hext]⟩
      | true =>
        cases ws with
        | nil => simp [decode, hf, hext] at h
        | cons x ws =>
          obtain ⟨rfl, rfl⟩ : f.build w x = i ∧ ws = rest := by simpa [decode, hf, hext] using h
          exact ⟨w, x, f, hf, rfl, by simp [Form.second_build, hext]⟩

theorem decode_of_no_match {t : Opcodes} {w : Half} (h : ∀ r ∈ t, w &&& r.form.mask ≠ r.bits) (ws : List Half) :
    decode t (w :: ws) = .error (.illegalOpcode w) := by
  simp [decode, Opcodes.formOf_eq_none h]

/-! ### The statements -/

/-- Settles O3: the table finds the form by the opcode bits, and the form reads the operands back. -/
theorem decodeOfEncode : Obligations.DecodeOfEncode := by
  intro t i rest ht hwf
  have hoperands := or_and_not_mask (Opcodes.bitsOf_and_not_mask ht i.form) (Instr.operands_and_not_mask hwf)
  rw [encode, decode_of_formOf (Opcodes.formOf_encode ht hwf) i.length_second, ← Form.build_and, hoperands,
    i.build_operands hwf]

/-- Settles O4: a halfword is the opcode bits of its form and the operands the form reads. -/
theorem decodingIsUnambiguous : Obligations.DecodingIsUnambiguous := by
  intro t ht
  refine ⟨fun w r q hr hq => Opcodes.eq_of_match ht hr hq, fun ws rest i hdec => ?_,
    fun w ws h => decode_of_no_match h ws⟩
  obtain ⟨w, x, f, hf, rfl, rfl⟩ := decode_eq_ok hdec
  refine ⟨f.wf_build w x, ?_⟩
  rw [encode, Form.form_build, Form.operands_build, ← (Opcodes.formOf_eq_some_iff ht).mp hf, and_or_and_not]

/-- Settles O5: nine words, evaluated. -/
theorem decodeWords : Obligations.DecodeWords :=
  ⟨rfl, rfl, rfl, rfl, rfl, rfl, rfl, rfl, rfl⟩

end Sys2Proof
end

section
/-! PROOFS. Traps of a fetch and of a halfword that matches no form (20_memory.md R87, R89, 30_encoding.md R137,
60_exceptions.md R351, R356, R358, 70_reset_and_hazards.md R394). -/

namespace Sys2Proof.Machine

/-! ### What a fetch raises -/

/-- The page of a fetch is absent, or closed to a PU in user mode (20_memory.md R96), and the trap number. -/
def State.FetchFaultIs (s : State) (va : VAddr) (n : Nat) : Prop :=
  (s.pageOf va = none ∧ n = 0x12) ∨
    ∃ d, s.pageOf va = some d ∧ s.cpu.flagU = true ∧ d.user = false ∧ n = 0x14

/-- Such a fetch fails, and not with Node Busy. -/
theorem State.FetchFaultIs.fetchHalf {s : State} {h : HAddr} {n : Nat} (hf : s.FetchFaultIs (byteOfHalf h) n) :
    ∃ f, f ≠ .nodeBusy ∧ (fetchFaultNumber f).val = n ∧ s.fetchHalf h = .error f := by
  obtain ⟨hpage, rfl⟩ | ⟨d, hpage, huser, hclosed, rfl⟩ := hf
  · exact ⟨.pageFault, by decide, rfl, State.fetchHalf_of_error (by simp [translate, hpage])⟩
  · have hdeny : pageDenies d .fetch s.cpu.flagU = true := by simp [pageDenies, huser, hclosed]
    exact ⟨.accessFault, by decide, rfl, State.fetchHalf_of_error (State.translate_of_denied hpage (.inl hdeny))⟩

/-! ### The state a trap is raised on -/

theorem unchanged_withIcache (s : State) (c : List FetchLine) : Unchanged s { s with icache := c } [.instCache] := by
  have hcpu : ({ s with icache := c } : State).cpu = s.cpu := State.cpu_with_icache s c
  intro p hp
  cases p with
  | instCache => exact absurd (List.mem_singleton.mpr rfl) hp
  | otherPus => exact fun q _ => State.pu_with_icache s c q
  | memory | dataCache | stored | tlb | test | window | semaphores | eventCounters | eventConfig | interruptArgument
  | pageTable | pending | model => simp [Part.Same]
  | reg r | status b | counters | mask | remainder | product | statusSave | trapArg | queue | returnMark
  | waitSem | run | waitMask | pendInter | pendRestart | intervals | waitEnded => simp [Part.Same, hcpu]

theorem unchanged_of_fetchHalf {s t : State} {h : HAddr} {w : Half} (hf : s.fetchHalf h = .ok (w, t)) :
    Unchanged s t [.tlb, .instCache] := by
  obtain ⟨l, c, rfl⟩ := State.fetchHalf_ok hf
  have htlb : Unchanged s { s with tlb := l } [.tlb] :=
    unchanged_memory (fun h => absurd (List.mem_singleton.mpr rfl) h) (fun _ => rfl) (fun _ _ => rfl) (fun _ => rfl)
  exact htlb.trans (by rfl) (unchanged_withIcache _ c)

/-- The PU stands at the entry of trap `n` with the instruction's own pair saved; of SSCR, bit 26 (SH) is saved as
`half` where `n` is a trap of a fetch (60_exceptions.md R351, R353, R358). -/
def State.FetchTrap (s t : State) (n : Nat) (half : Bool) : Prop :=
  Unchanged s t (entryParts ++ [.tlb, .instCache]) ∧
    t.AtEntry s.turn (if s.cpu.flagT then n else 0x1E) ∧
    (s.cpu.flagT = true → t.cpu.qHead = s.cpu.pc ∧ t.cpu.qTail = s.cpu.npc ∧
      (∀ j < 32, j ≠ 26 → t.cpu.statusSave.getLsbD j = s.cpu.sscr.getLsbD j) ∧
      (n ≠ 0x16 → t.cpu.statusSave.getLsbD 26 = half))

/-- A trap raised after changes of SH and of what a fetch fills. -/
theorem State.fetchTrap_raise {s u : State} {n : Fin 32} {half : Bool}
    (h : Unchanged s u [.status 26, .tlb, .instCache]) (hhalf : n.val ≠ 0x16 → u.cpu.sscr.getLsbD 26 = half)
    (hcounter : n ≠ numEventCounter) (hexternal : n ≠ numExternal) : s.FetchTrap (u.raise n) n.val half := by
  have hturn : u.turn = s.turn := h.turn (by simp)
  have hflag : u.cpu.flagT = s.cpu.flagT := h (.status 11) (by simp)
  obtain ⟨hpc, hnpc⟩ : Part.Same s u .counters := h _ (by simp)
  refine ⟨(h.trans hturn (unchanged_raise u hcounter hexternal)).mono ?_, ?_, fun hT => ?_⟩
  · simp [status_mem_entryParts]
  · rw [← hturn, ← hflag]
    exact (u.raise_takesTrap n).atEntry
  · obtain ⟨hstatus, hhead, htail⟩ : (u.raise n).cpu.statusSave = u.cpu.sscr ∧ (u.raise n).cpu.qHead = u.cpu.pc ∧
        (u.raise n).cpu.qTail = u.cpu.npc := by
      have hsaved := State.raiseAt_saved n (u.cpu.pc, u.cpu.npc) (hflag.trans hT)
      rwa [← u.raise_turn n] at hsaved
    rw [hhead, htail, hstatus]
    refine ⟨hpc, hnpc, fun j hj hne => h (.status ⟨j, hj⟩) ?_, hhalf⟩
    simp [Fin.ext_iff, hne]

theorem State.fetchTrap_fetchFault (s : State) (half : Bool) {f : MemFault} (hf : f ≠ .nodeBusy) (h : HAddr) :
    s.FetchTrap (s.fetchFault half f h) (fetchFaultNumber f).val half := by
  have hmark : Unchanged s (s.modCpu (fun u => u.withBit bitSH half)) [.status 26] := unchanged_withBit s 26 half
  have hhalf : (s.modCpu (fun u => u.withBit bitSH half)).cpu.sscr.getLsbD 26 = half := by
    rw [modCpu_cpu, PU.withBit_sscr, setBit_getLsbD _ _ _ _ (by decide)]
    exact if_pos rfl
  have hraise : s.fetchFault half f h =
      (s.modCpu (fun u => u.withBit bitSH half)).raise (fetchFaultNumber f) := by
    cases f with
    | nodeBusy => exact absurd rfl hf
    | pageFault | accessFault => rfl
  rw [hraise]
  refine State.fetchTrap_raise (hmark.mono (by simp)) (fun _ => hhalf) ?_ ?_ <;> cases f <;> decide

/-- Settles O8: a fault of the first halfword's fetch, a halfword that matches no form, a fault of the second's. -/
theorem fetchAndDecodeTraps : Obligations.FetchAndDecodeTraps := by
  intro s d s0 va vb pa faults traps hacc hw hs hf
  have hgo : (∀ x, s0.cpu.run ≠ some (.move x)) → s0.preempt = none := fun h =>
    State.preempt_eq_none hacc (State.moving_eq_false h) hw hs hf
  refine ⟨fun hrun => ⟨fun n hfault => ?_, fun w hallow hcoh hdec => ?_⟩, fun w n hrun hfault => ?_⟩
  · have hpre := hgo (by simp [hrun])
    obtain ⟨f, hbusy, rfl, hfetch⟩ := State.FetchFaultIs.fetchHalf hfault
    refine ⟨_, step_of_fetchDecode_error (o := .next _) hpre ?_, s0.fetchTrap_fetchFault false hbusy s0.cpu.pc⟩
    rw [State.fetchDecode_of_idle hrun, State.fetchFirst_of_fault hfetch]
  · have hpre := hgo (by simp [hrun])
    have hfetch := State.fetchHalf_of_coherent hallow hcoh
    have hcpu := State.cpu_of_fetchHalf hfetch
    have hstep := step_of_fetchDecode_error hpre
      ((State.fetchDecode_of_idle hrun).trans (State.fetchFirst_of_illegal hfetch hdec))
    refine ⟨fun hrti => ?_, fun hrti => ?_⟩
    · rw [State.illegalHalf_of_alone (by rwa [hcpu])] at hstep
      exact ⟨_, hstep, State.fetchTrap_raise ((unchanged_of_fetchHalf hfetch).mono (by simp)) (absurd rfl)
        (by decide) (by decide)⟩
    · rw [hstep, State.illegalHalf_of_pair (by rwa [hcpu])]
      rfl
  · obtain ⟨f, hbusy, rfl, hfetch⟩ := State.FetchFaultIs.fetchHalf hfault
    refine ⟨_, step_of_fetchDecode_error (o := .next _) (hgo (by simp [hrun])) ?_,
      s0.fetchTrap_fetchFault true hbusy (pcAdd s0.cpu.pc 1)⟩
    rw [State.fetchDecode_of_second hrun, State.fetchSecond_of_fault hfetch]

end Sys2Proof.Machine
end

section
/-! PROOFS. Word loads and stores of every addressing form, through the data cache (40_load_store_move.md R166 to R168,
R172, R176 to R179). -/

namespace Sys2Proof.Machine

/-! ### The word address of each form -/

theorem wordAddress_of_toNat {x : Word} {disp : Nat} {wa : WAddr} (h : wa.toNat = (x.toNat + disp) % 2 ^ 30) :
    wa = wordAddress x disp := by
  apply BitVec.eq_of_toNat_eq
  rw [h, wordAddress, addressOf, BitVec.toNat_add, BitVec.extractLsb'_toNat, Nat.shiftRight_zero, BitVec.toNat_ofNat,
    ← Nat.add_mod]

theorem State.directWA_of_toNat {s : State} {disp : Nat} {wa : WAddr}
    (h : wa.toNat = ((s.window s.cpu.flagCN).toNat + disp) % 2 ^ 30) : wa = s.directWA disp := by
  apply BitVec.eq_of_toNat_eq
  rw [h, directWA, BitVec.toNat_add, BitVec.toNat_ofNat, Nat.add_mod_mod]

/-! ### The end of an access that has no semaphore -/

/-- The instruction is no direct access, or one beyond the semaphores (20_memory.md R90, R91). -/
def BeyondSemaphores (i : Instr) : Prop := ∀ rb disp, i = .ldWD rb disp ∨ i = .stWD rb disp → 8 ≤ disp

theorem unchanged_endDirect_beyond (s : State) (cn : Bool) {disp : Nat} (b : Bool) (h : 8 ≤ disp) :
    Unchanged s (s.endDirect cn disp b) stepParts := by
  rw [State.endDirect, if_neg (by omega)]
  exact unchanged_advance s

theorem BeyondSemaphores.unchanged_endAccess {i : Instr} (h : BeyondSemaphores i) (s t : State) :
    Unchanged t (s.endAccess i t) stepParts := by
  unfold State.endAccess
  split
  · exact unchanged_endDirect_beyond t _ _ (h _ _ (.inl rfl))
  · exact unchanged_endDirect_beyond t _ _ (h _ _ (.inr rfl))
  · exact unchanged_sequentialExtended t
  · exact unchanged_sequentialExtended t
  · exact unchanged_advance t

theorem WordAccess.endAccess_at_of_npc {i : Instr} {s u : State} {k : AccessKind} {rb : Reg} {wa : WAddr}
    (h : WordAccess i s k rb wa) (hnpc : u.cpu.npc = s.cpu.npc) :
    if i.form.extended then AdvancesExtended s (s.endAccess i u) else Advances s (s.endAccess i u) := by
  have hat := h.endAccess_at u
  unfold AdvancesExtended Advances at hat ⊢
  rwa [hnpc] at hat

/-! ### Loads and stores -/

/-- A word load of this node beyond the semaphores, whatever its form. -/
theorem WordAccess.loads {i : Instr} {s : State} {rb : Reg} {wa : WAddr} {d : PageDesc}
    (h : WordAccess i s .load rb wa) (hplain : BeyondSemaphores i) (hm : memoryWf s.mem)
    (hallow : s.Allows (byteOfWord wa) .load d) :
    ∃ t, exec i s = .next t ∧ Loads s t rb wa d [] ∧
      (if i.form.extended then AdvancesExtended s t else Advances s t) := by
  refine ⟨s.endAccess i (s.afterLoad rb wa d), ?_, ?_, h.endAccess_at_of_npc (s.afterLoad_npc rb wa d)⟩
  · rw [h.exec_load, State.loadInto_of_allows rb _ hallow]
  · exact loads_of_afterLoad hm (List.nil_subset _) (hplain.unchanged_endAccess s _)

/-- A word store of this node beyond the semaphores, whatever its form. -/
theorem WordAccess.stores {i : Instr} {s : State} {rb : Reg} {wa : WAddr} {d : PageDesc}
    (h : WordAccess i s .store rb wa) (hplain : BeyondSemaphores i) (hm : memoryWf s.mem)
    (hallow : s.Allows (byteOfWord wa) .store d) :
    ∃ t, exec i s = .next t ∧ Stores s t wa (s.rd rb) d [] ∧
      (if i.form.extended then AdvancesExtended s t else Advances s t) := by
  refine ⟨s.endAccess i (s.afterStore wa (s.rd rb) d), ?_, ?_, h.endAccess_at_of_npc (by rw [State.afterStore_cpu])⟩
  · rw [h.exec_store, State.storeFrom_of_allows _ _ hallow]
  · exact stores_of_afterStore hm (List.nil_subset _) (hplain.unchanged_endAccess s _)

/-- Settles O32: each form is a word access at its address, and none has a semaphore. -/
theorem wordLoads : Obligations.WordLoads := by
  intro s rb ra base disp i wa d hform hm hallow
  obtain ⟨rfl, hwa⟩ | ⟨rfl, hwa⟩ | ⟨rfl, hplaced, hwa⟩ | ⟨rfl, hle, hwa⟩ := hform
  · exact WordAccess.loads (.inl ⟨base, disp, wordAddress_of_toNat hwa, .inl ⟨rfl, rfl⟩⟩)
      (by simp [BeyondSemaphores]) hm hallow
  · exact WordAccess.loads (.inr (.inl ⟨ra, wordAddress_of_toNat hwa, .inl ⟨rfl, rfl⟩⟩))
      (by simp [BeyondSemaphores]) hm hallow
  · exact WordAccess.loads (.inr (.inr (.inl ⟨ra, disp, hplaced, wordAddress_of_toNat hwa, .inl ⟨rfl, rfl⟩⟩)))
      (by simp [BeyondSemaphores]) hm hallow
  · exact WordAccess.loads (.inr (.inr (.inr ⟨disp, State.directWA_of_toNat hwa,
      .inl ⟨rfl, rfl, fun hsem => absurd hsem (by omega)⟩⟩))) (by simpa [BeyondSemaphores] using hle) hm hallow

/-- Settles O33: each form is a word access at its address, and none has a semaphore. -/
theorem wordStores : Obligations.WordStores := by
  intro s rb ra base disp i wa d hform hm hallow
  obtain ⟨rfl, hwa⟩ | ⟨rfl, hwa⟩ | ⟨rfl, hplaced, hwa⟩ | ⟨rfl, hle, hwa⟩ := hform
  · exact WordAccess.stores (.inl ⟨base, disp, wordAddress_of_toNat hwa, .inr ⟨rfl, rfl⟩⟩)
      (by simp [BeyondSemaphores]) hm hallow
  · exact WordAccess.stores (.inr (.inl ⟨ra, wordAddress_of_toNat hwa, .inr ⟨rfl, rfl⟩⟩))
      (by simp [BeyondSemaphores]) hm hallow
  · exact WordAccess.stores (.inr (.inr (.inl ⟨ra, disp, hplaced, wordAddress_of_toNat hwa, .inr ⟨rfl, rfl⟩⟩)))
      (by simp [BeyondSemaphores]) hm hallow
  · exact WordAccess.stores (.inr (.inr (.inr ⟨disp, State.directWA_of_toNat hwa,
      .inr ⟨rfl, rfl, fun hsem => absurd hsem (by omega)⟩⟩))) (by simpa [BeyondSemaphores] using hle) hm hallow

end Sys2Proof.Machine
end

section
/-! PROOFS. Undefined uses are refused (93_implementation_defined.md U3, U4, U8, U13; 70_reset_and_hazards.md R393,
R394). -/

namespace Sys2Proof.Machine

theorem PU.misplaced_iff (u : PU) : u.misplaced = true ↔ u.afterBranch = true ∨ u.npc ≠ pcAdd u.pc 1 := by
  simp [misplaced]

/-! ### RtI (45_control.md R322) -/

section
variable {s : State} (hsystem : s.cpu.flagU = false)
include hsystem

theorem exec_rtI_of_enabled (hT : s.cpu.flagT = true) : exec .rtI s = .refused .rtiWithTrapsEnabled := by
  simp [exec, execRtI, hsystem, hT]

theorem exec_rtI_of_misplaced (hT : s.cpu.flagT = false) (hfirst : s.cpu.rti1 = false)
    (hplace : s.cpu.misplaced = true) : exec .rtI s = .refused .rtiAfterBranch := by
  simp [exec, execRtI, hsystem, hT, hfirst, hplace]

end

theorem exec_strt_of_issuer {s : State} (rb : Reg) {m : BitVec 4} (h : m.getLsbD s.turn.number = true) :
    exec (.strt rb m) s = .refused .strtNamesItself :=
  if_pos h

/-- Settles O50: the instructions' own refusals, and those of the step that decodes a halfword after a first RtI or a
misplaced first half. -/
theorem undefinedUsesAreRefused : Obligations.UndefinedUsesAreRefused := by
  refine ⟨fun s rb ra d m => ⟨fun hplace => ⟨?_, ?_⟩, s.cpu.misplaced_iff, ⟨rfl, rfl⟩, exec_rtI_of_enabled,
    exec_rtI_of_misplaced, exec_strt_of_issuer rb⟩, ?_⟩
  · exact (exec_ldWE ..).trans (if_pos hplace)
  · exact (exec_stWE ..).trans (if_pos hplace)
  · intro s d s0 va decoded hacc hrun hw hs hf hallow hcoh
    have hpre : s0.preempt = none := State.preempt_eq_none hacc (State.moving_eq_false (by simp [hrun])) hw hs hf
    have hfetch := State.fetchHalf_of_coherent hallow hcoh
    have hcpu := State.cpu_of_fetchHalf hfetch
    have hheld (hdec : decoded = .error .truncated) :=
      step_of_fetchDecode_error hpre ((State.fetchDecode_of_idle hrun).trans (State.fetchFirst_of_truncated hfetch hdec))
    refine ⟨fun hrti hafter => ?_, fun hrti hplace hdec => ?_⟩
    · obtain ⟨i, hi, hdec⟩ | hdec := hafter
      · exact step_of_pairBroken hpre ((State.fetchDecode_of_idle hrun).trans (State.fetchFirst_of_decode hfetch hdec))
          (by rwa [hcpu]) hi
      · rw [hheld hdec, State.holdFirst_of_pair (by rwa [hcpu])]
        rfl
    · rw [hheld hdec, State.holdFirst_of_misplaced (by rwa [hcpu]) (by rwa [hcpu])]
      rfl

end Sys2Proof.Machine
end

section
/-! PROOFS. Mov to and from the special registers (40_load_store_move.md R169, R170; 10_state.md R50 to R66), and the
traps of reserved and privileged ones (60_exceptions.md R351, R360). -/

namespace Sys2Proof.Machine

/-! ### Frames of the writes -/

/-- The piece of the state that a register with result intervals is. -/
def Dest.part : Dest → Part
  | .gpr r => .reg r
  | .remainder => .remainder
  | .product => .product

theorem unchanged_writeDest (s : State) (d : Dest) (v : Word) :
    Unchanged s (s.modCpu (fun u => u.writeDest d v)) [d.part] := by
  cases d with
  | gpr r => exact unchanged_wr s r v
  | remainder =>
    exact unchanged_setCpu (u := s.cpu.writeDest .remainder v) (e := s.event) (fun _ _ => rfl) (fun _ _ => rfl)
      (fun _ => ⟨rfl, rfl⟩) (fun _ => rfl) (fun h => absurd (List.mem_singleton.mpr rfl) h) (fun _ => rfl)
      (fun _ => rfl) (fun _ => rfl) (fun _ => ⟨rfl, rfl⟩) (fun _ => rfl) (fun _ => rfl) (fun _ => rfl) (fun _ => rfl)
      (fun _ => rfl) (fun _ => rfl) (fun _ _ => PU.busy_writeDest ..) (fun _ => rfl)
  | product =>
    exact unchanged_setCpu (u := s.cpu.writeDest .product v) (e := s.event) (fun _ _ => rfl) (fun _ _ => rfl)
      (fun _ => ⟨rfl, rfl⟩) (fun _ => rfl) (fun _ => rfl) (fun h => absurd (List.mem_singleton.mpr rfl) h)
      (fun _ => rfl) (fun _ => rfl) (fun _ => ⟨rfl, rfl⟩) (fun _ => rfl) (fun _ => rfl) (fun _ => rfl) (fun _ => rfl)
      (fun _ => rfl) (fun _ => rfl) (fun _ _ => PU.busy_writeDest ..) (fun _ => rfl)

theorem unchanged_writeMd (s : State) (d : Dest) (v : Word) :
    Unchanged s (s.modCpu (fun u => u.writeMd d v)) [d.part, .status 2] := by
  have h := (unchanged_writeDest s d v).trans (State.modCpu_turn ..) (unchanged_withBit _ 2 true)
  rwa [State.modCpu_modCpu] at h

/-- The mask and the saved context replaced. -/
theorem unchanged_savedContext {s : State} {m : MaskReg} {save arg : Word} {head tail : HAddr} {ps : List Part}
    (hmask : Part.mask ∉ ps → m = s.cpu.mask) (hsave : Part.statusSave ∉ ps → save = s.cpu.statusSave)
    (harg : Part.trapArg ∉ ps → arg = s.cpu.trapArg)
    (hqueue : Part.queue ∉ ps → head = s.cpu.qHead ∧ tail = s.cpu.qTail) :
    Unchanged s (s.setCpu
      { s.cpu with mask := m, statusSave := save, trapArg := arg, qHead := head, qTail := tail }) ps :=
  unchanged_setCpu (e := s.event)
    (u := { s.cpu with mask := m, statusSave := save, trapArg := arg, qHead := head, qTail := tail })
    (fun _ _ => rfl) (fun _ _ => rfl) (fun _ => ⟨rfl, rfl⟩) hmask (fun _ => rfl) (fun _ => rfl) hsave harg hqueue
    (fun _ => rfl) (fun _ => rfl) (fun _ => rfl) (fun _ => rfl) (fun _ => rfl) (fun _ => rfl) (fun _ _ => rfl)
    (fun _ => rfl)

/-- The special registers that the chip has once replaced (10_state.md R60 to R64). -/
theorem unchanged_chipRegisters {s : State} {c10 c11 c14 c15 : Word} {c12 : BitVec 16} {ps : List Part}
    (hcounters : Part.eventCounters ∉ ps → c10 = s.s10 ∧ c11 = s.s11)
    (hconfig : Part.eventConfig ∉ ps → c12 = s.s12) (hint : Part.interruptArgument ∉ ps → c14 = s.s14)
    (hpage : Part.pageTable ∉ ps → c15 = s.s15) :
    Unchanged s { s with s10 := c10, s11 := c11, s12 := c12, s14 := c14, s15 := c15 } ps := by
  have hpu : ∀ p, ({ s with s10 := c10, s11 := c11, s12 := c12, s14 := c14, s15 := c15 } : State).pu p = s.pu p := by
    intro p
    cases p <;> rfl
  have hcpu : ({ s with s10 := c10, s11 := c11, s12 := c12, s14 := c14, s15 := c15 } : State).cpu = s.cpu := hpu s.turn
  intro p hp
  cases p with
  | eventCounters => exact hcounters hp
  | eventConfig => exact hconfig hp
  | interruptArgument => exact hint hp
  | pageTable => exact hpage hp
  | otherPus => exact fun q _ => hpu q
  | memory | dataCache | instCache | stored | tlb | test | window | semaphores | pending | model => simp [Part.Same]
  | reg r | status b | counters | mask | remainder | product | statusSave | trapArg | queue | returnMark
  | waitSem | run | waitMask | pendInter | pendRestart | intervals | waitEnded => simp [Part.Same, hcpu]

/-! ### Mov to Special -/

/-- An allowed Mov to Special completes with the write's frame. -/
theorem completes_of_writeSpecial {s t : State} {rb : Reg} {sp : SReg} {also : List Part} {post : State → Prop}
    (hsp : notDestination sp = false) (hmay : s.sregDenied sp = false) (hw : s.writeSpecial sp (s.rd rb) = some t)
    (hframe : Unchanged s t also) (hown : ∀ p ∈ [Part.counters, .model], p ∉ also) (hpost : post t.advance) :
    Completes (.movTS rb sp) s also post := by
  refine ⟨_, exec_movTS_of_allowed hsp hmay hw, hpost, advances_of_unchanged hframe (hown _ (by simp)), ?_⟩
  refine (hframe.trans (hframe.turn (hown _ (by simp))) (unchanged_advance t)).mono fun p hp => ?_
  simp only [List.mem_append] at hp ⊢
  tauto

theorem configWritten_getLsbD (v : Word) {j : Nat} (hj : j < 16) :
    (configWritten v).getLsbD j = if j = 6 ∨ j = 14 then false else v.getLsbD j := by
  have hkept : ∀ j < 16, (0xBFBF#16).getLsbD j = !decide (j = 6 ∨ j = 14) := by decide
  rw [configWritten, BitVec.getLsbD_and, BitVec.getLsbD_extractLsb', Nat.zero_add, decide_eq_true hj, Bool.true_and,
    show (0xBFBF : BitVec 16).getLsbD j = _ from hkept j hj]
  by_cases h : j = 6 ∨ j = 14 <;> simp [h]

theorem State.interruptWritten_getLsbD {s : State} (v : Word) {j : Nat} (h : s.s14.getLsbD 31 = false) :
    (s.interruptWritten v).getLsbD j = if j = 31 then v.getLsbD 31
      else if j = 30 then (s.s14.getLsbD 30 && v.getLsbD 30) else s.s14.getLsbD j := by
  simp only [interruptWritten, h, Bool.false_eq_true, if_false]
  rw [setBit_getLsbD _ _ _ _ (by decide), setBit_getLsbD _ _ _ _ (by decide)]

/-- Settles O43: what `writeSpecial` writes of each register, and its frame. -/
theorem specialWrites : Obligations.SpecialWrites := by
  intro s rb may cn
  refine ⟨fun hmay => ?_, fun hmay => ?_, fun hmay => ?_, fun hmay => ?_, fun hT => ⟨fun hmay => ?_, fun hmay => ?_,
    fun hmay => ?_⟩, fun hmay => ?_, fun hmay => ?_, fun hmay => ?_, fun hmay heie => ?_, fun hmay => ?_⟩
  · refine completes_of_writeSpecial rfl hmay rfl (unchanged_savedContext
      (fun h => absurd (List.mem_singleton.mpr rfl) h) (fun _ => rfl) (fun _ => rfl) (fun _ => ⟨rfl, rfl⟩)) (by simp) ?_
    simp [MaskReg.bits, BitVec.setWidth_eq_extractLsb']
  · refine completes_of_writeSpecial rfl hmay rfl (unchanged_writeMd s .remainder _) (by decide) ?_
    simp [PU.writeMd, PU.writeDest, PU.putDest, PU.flagF, bitF, -BitVec.getLsbD_eq_getElem]
  · refine completes_of_writeSpecial rfl hmay rfl (unchanged_writeMd s .product _) (by decide) ?_
    simp [PU.writeMd, PU.writeDest, PU.putDest, PU.flagF, bitF, -BitVec.getLsbD_eq_getElem]
  · refine completes_of_writeSpecial rfl hmay (s.writeSpecial_window _) (unchanged_withS6 s _) (by simp) ⟨?_, ?_, ?_⟩
    · rw [State.advance_sems, State.withS6_sems, if_pos rfl]
    · rw [State.advance_sems, State.withS6_sems, if_neg (by simp [cn])]
    · exact State.advance_window1 _
  · refine completes_of_writeSpecial rfl hmay rfl (unchanged_savedContext (fun _ => rfl)
      (fun h => absurd (List.mem_singleton.mpr rfl) h) (fun _ => rfl) (fun _ => ⟨rfl, rfl⟩)) (by simp) ?_
    simp
  · refine completes_of_writeSpecial rfl hmay rfl (unchanged_savedContext (fun _ => rfl) (fun _ => rfl)
      (fun h => absurd (List.mem_singleton.mpr rfl) h) (fun _ => ⟨rfl, rfl⟩)) (by simp) ?_
    simp [hT]
  · refine completes_of_writeSpecial rfl hmay rfl (unchanged_savedContext (fun _ => rfl) (fun _ => rfl) (fun _ => rfl)
      (fun h => absurd (List.mem_singleton.mpr rfl) h)) (by simp) ?_
    simp [addressOf, BitVec.setWidth_eq_extractLsb']
  · refine completes_of_writeSpecial rfl hmay rfl (unchanged_chipRegisters
      (fun h => absurd (List.mem_singleton.mpr rfl) h) (fun _ => rfl) (fun _ => rfl) (fun _ => rfl)) (by simp) ?_
    simp
  · refine completes_of_writeSpecial rfl hmay rfl (unchanged_chipRegisters
      (fun h => absurd (List.mem_singleton.mpr rfl) h) (fun _ => rfl) (fun _ => rfl) (fun _ => rfl)) (by simp) ?_
    simp
  · refine completes_of_writeSpecial rfl hmay rfl (unchanged_chipRegisters (fun _ => ⟨rfl, rfl⟩)
      (fun h => absurd (List.mem_singleton.mpr rfl) h) (fun _ => rfl) (fun _ => rfl)) (by simp) fun j hj => ?_
    rw [State.advance_s12]
    exact configWritten_getLsbD _ hj
  · refine completes_of_writeSpecial rfl hmay rfl (unchanged_chipRegisters (fun _ => ⟨rfl, rfl⟩) (fun _ => rfl)
      (fun h => absurd (List.mem_singleton.mpr rfl) h) (fun _ => rfl)) (by simp) fun j hj => ?_
    rw [State.advance_s14]
    exact State.interruptWritten_getLsbD _ heie
  · refine completes_of_writeSpecial rfl hmay rfl (unchanged_chipRegisters (fun _ => ⟨rfl, rfl⟩) (fun _ => rfl)
      (fun _ => rfl) (fun h => absurd (List.mem_singleton.mpr rfl) h)) (by simp) ?_
    simp

/-! ### Mov from Special -/

theorem writes_of_readSpecial {s : State} {sp : SReg} (rb : Reg) {v : Word} (hsp : sp ≠ .reserved5)
    (hmay : s.sregDenied sp = false) (hv : s.readSpecial sp = v) :
    Writes (.movFS rb sp) s rb v [] (fun _ => True) := by
  rw [← hv]
  exact writes_of_wr_advance (exec_movFS_of_allowed rb hsp hmay)

theorem State.trapRegister_of_disabled {s : State} (v : Word) (h : s.cpu.flagT = false) : s.trapRegister v = v := by
  simp [trapRegister, h]

theorem PU.readDest_of_idle {u : PU} {d : Dest} (tick : Nat) (h : u.busy d = false) : u.readDest tick d = u.getDest d := by
  simp [readDest, h]

theorem zero_append_eq_setWidth {n : Nat} (m : Nat) (x : BitVec n) : (0#m ++ x) = x.setWidth (m + n) := by
  apply BitVec.eq_of_getLsbD_eq
  intro j hj
  rw [BitVec.getLsbD_append, BitVec.getLsbD_setWidth, decide_eq_true hj, Bool.true_and]
  by_cases h : j < n
  · rw [if_pos h]
  · rw [if_neg h, BitVec.getLsbD_of_ge _ _ (Nat.le_of_not_lt h)]
    simp

theorem State.globalBits_getLsbD (s : State) (p : PuId) :
    (s.globalBits p).getLsbD 0 = (s.pu p).flagU ∧ (s.globalBits p).getLsbD 1 = (s.pu p).flagT ∧
      (s.globalBits p).getLsbD 2 = s.frozen p ∧ (s.globalBits p).getLsbD 3 = (s.pu p).flagW := by
  have hplace : ∀ w f t u : Bool, let v : BitVec 4 :=
      (BitVec.ofBool w ++ BitVec.ofBool f ++ BitVec.ofBool t ++ BitVec.ofBool u : BitVec (1 + 1 + 1 + 1))
      v.getLsbD 0 = u ∧ v.getLsbD 1 = t ∧ v.getLsbD 2 = f ∧ v.getLsbD 3 = w := by decide
  exact hplace ..

/-- S13 shows four bits of each PU, by rising number, and nothing above (10_state.md R62). -/
theorem State.globalStatus_getLsbD (s : State) (j : Nat) :
    s.globalStatus.getLsbD j = if j < 4 then (s.globalBits .pu0).getLsbD j
      else if j < 8 then (s.globalBits .pu1).getLsbD (j - 4)
      else if j < 12 then (s.globalBits .pu2).getLsbD (j - 8)
      else if j < 16 then (s.globalBits .pu3).getLsbD (j - 12) else false := by
  rw [globalStatus, BitVec.getLsbD_append, BitVec.getLsbD_append, BitVec.getLsbD_append, BitVec.getLsbD_append]
  simp only [Nat.sub_sub, BitVec.getLsbD_zero, show j - 4 < 4 ↔ j < 8 by omega, show j - (4 + 4) < 4 ↔ j < 12 by omega,
    show j - (4 + 4 + 4) < 4 ↔ j < 16 by omega]

theorem State.globalStatus_of_pu (s : State) (p : PuId) {j : Nat} (hj : j < 4) :
    s.globalStatus.getLsbD (4 * p.number + j) = (s.globalBits p).getLsbD j := by
  rw [globalStatus_getLsbD]
  cases p with
  | pu0 => rw [PuId.number, Nat.zero_add, if_pos hj]
  | pu1 => rw [PuId.number, if_neg (by omega), if_pos (by omega), Nat.add_sub_cancel_left]
  | pu2 => rw [PuId.number, if_neg (by omega), if_neg (by omega), if_pos (by omega), Nat.add_sub_cancel_left]
  | pu3 =>
    rw [PuId.number, if_neg (by omega), if_neg (by omega), if_neg (by omega), if_pos (by omega),
      Nat.add_sub_cancel_left]

theorem State.globalStatus_lt (s : State) : s.globalStatus.toNat < 2 ^ 16 := by
  rw [BitVec.toNat_lt_iff_getLsbD_eq_false 16 (by decide)]
  intro k
  rw [globalStatus_getLsbD, if_neg (by omega), if_neg (by omega), if_neg (by omega), if_neg (by omega)]

/-- Settles O44: what `readSpecial` reads of each register. -/
theorem specialReads : Obligations.SpecialReads := by
  intro s rb reads may
  refine ⟨fun hmay => ?_, fun hmay => ⟨⟨s.readSpecial .remainder, ?_⟩, fun hidle => ?_⟩,
    fun hmay => ⟨⟨s.readSpecial .product, ?_⟩, fun hidle => ?_⟩, fun hmay => ?_,
    fun hmay => ⟨s.readSpecial .test, ?_⟩, fun hmay => ?_, fun hT => ⟨fun hmay => ?_, fun hmay => ?_, fun hmay => ?_⟩, fun hmay => ?_,
    fun hmay => ?_, fun hmay => ?_, fun hmay => ⟨s.globalStatus, fun p => ?_, s.globalStatus_lt, ?_⟩, fun hmay heie => ?_,
    fun hmay => ?_⟩
  · exact writes_of_readSpecial rb (by decide) hmay (zero_append_eq_setWidth ..)
  · exact writes_of_readSpecial rb (by decide) hmay rfl
  · exact writes_of_readSpecial rb (by decide) hmay (PU.readDest_of_idle _ hidle)
  · exact writes_of_readSpecial rb (by decide) hmay rfl
  · exact writes_of_readSpecial rb (by decide) hmay (PU.readDest_of_idle _ hidle)
  · exact writes_of_readSpecial rb (by decide) hmay rfl
  · exact writes_of_readSpecial rb (by decide) hmay rfl
  · exact writes_of_readSpecial rb (by decide) hmay rfl
  · exact writes_of_readSpecial rb (by decide) hmay (State.trapRegister_of_disabled _ hT)
  · exact writes_of_readSpecial rb (by decide) hmay (State.trapRegister_of_disabled _ hT)
  · exact writes_of_readSpecial rb (by decide) hmay ((State.trapRegister_of_disabled _ hT).trans (zero_append_eq_setWidth ..))
  · exact writes_of_readSpecial rb (by decide) hmay rfl
  · exact writes_of_readSpecial rb (by decide) hmay rfl
  · exact writes_of_readSpecial rb (by decide) hmay (zero_append_eq_setWidth ..)
  · obtain ⟨hU, hT, hF, hW⟩ := s.globalBits_getLsbD p
    rw [← hU, ← hT, ← hF, ← hW]
    exact ⟨s.globalStatus_of_pu p (j := 0) (by decide), s.globalStatus_of_pu p (by decide),
      s.globalStatus_of_pu p (by decide), s.globalStatus_of_pu p (by decide)⟩
  · exact writes_of_readSpecial rb (by decide) hmay rfl
  · exact writes_of_readSpecial rb (by decide) hmay (if_neg (by simpa using heie))
  · exact writes_of_readSpecial rb (by decide) hmay rfl

/-! ### Reserved and privileged registers and instructions -/

theorem raisesOnly_of_illegal {i : Instr} {s : State} (h : exec i s = .next s.raiseIllegal) : RaisesOnly i s 0x16 :=
  ⟨_, h, s.raise_takesTrap numIllegal, unchanged_raise s (by decide) (by decide)⟩

theorem exec_movTS_of_denied {s : State} (rb : Reg) {sp : SReg} (h : notDestination sp = true ∨ s.sregDenied sp = true) :
    exec (.movTS rb sp) s = .next s.raiseIllegal :=
  if_pos (by simpa using h)

theorem exec_movFS_of_denied {s : State} (rb : Reg) {sp : SReg} (h : sp = .reserved5 ∨ s.sregDenied sp = true) :
    exec (.movFS rb sp) s = .next s.raiseIllegal :=
  if_pos (by simpa using h)

/-- In user mode the registers of PRIV_SREGS may not be named (10_state.md R66). -/
theorem State.sregDenied_of_privileged {s : State} (huser : s.cpu.flagU = true) {sp : SReg}
    (h : sp.field.val ∈ [4, 7, 8, 9, 14, 15] ∨ sp ∈ s.params.privExtra) : s.sregDenied sp = true := by
  obtain h | h := h
  · have hpriv : ∀ n : Fin 16, n.val ∈ [4, 7, 8, 9, 14, 15] → privSRegs.contains (SReg.ofField n) = true := by decide
    have hsp := hpriv sp.field h
    rw [SReg.ofField_field] at hsp
    rw [sregDenied, privileged, huser, hsp]
    rfl
  · simp [sregDenied, privileged, huser, h]

theorem exec_of_privileged {i : Instr} {s : State} (huser : s.cpu.flagU = true)
    (hi : i.form ∈ [Form.int, Form.res, Form.rtI, Form.itlb, Form.rdtx, Form.iicA]) :
    exec i s = .next s.raiseIllegal := by
  cases i with
  | int m => exact if_pos huser
  | res m => exact if_pos huser
  | rtI => exact if_pos huser
  | itlb => exact if_pos huser
  | rdtx rb ra => exact if_pos huser
  | iicA => exact if_pos huser
  | _ => simp [Instr.form] at hi

/-- Settles O45: each is denied before it does anything, and S4 alone is left for `writeSpecial` to refuse. -/
theorem privilegeTraps : Obligations.PrivilegeTraps := by
  refine ⟨fun s rb => ⟨fun sp hsp => ?_, ?_, fun huser sp hsp => ?_, fun hsystem => ?_⟩, fun _ => rfl,
    fun s i huser hi => raisesOnly_of_illegal (exec_of_privileged huser hi)⟩
  · have hno : ∀ n : Fin 16, n.val ∈ [3, 5, 13] → notDestination (SReg.ofField n) = true := by decide
    have hdest := hno sp.field hsp
    rw [SReg.ofField_field] at hdest
    exact raisesOnly_of_illegal (exec_movTS_of_denied rb (.inl hdest))
  · exact raisesOnly_of_illegal (exec_movFS_of_denied rb (.inl rfl))
  · have hdenied := State.sregDenied_of_privileged huser hsp
    exact ⟨raisesOnly_of_illegal (exec_movTS_of_denied rb (.inr hdenied)),
      raisesOnly_of_illegal (exec_movFS_of_denied rb (.inr hdenied))⟩
  · have hallowed : s.sregDenied .test = false := by simp [State.sregDenied, hsystem]
    exact (if_neg (by simp [notDestination, hallowed])).trans rfl

end Sys2Proof.Machine
end

section
/-! PROOFS. Byte loads and stores of this node (40_load_store_move.md R163, R174; 20_memory.md R82, R85, R86): the
pointer's step and the access do not disturb each other. -/

namespace Sys2Proof.Machine

/-! ### A register written before an access or after it -/

section
variable (s : State) (r : Reg) (v : Word)

theorem fetchParts_not_mem_reg : ∀ p ∈ fetchParts, p ∉ [Part.reg r] := by
  simp [fetchParts]

theorem State.fillTlb_wr (va : VAddr) : (s.wr r v).fillTlb va = (s.fillTlb va).wr r v := by
  unfold fillTlb
  rw [wr_tlb, wr_s15, wr_mem]
  split
  · rfl
  · split
    · rfl
    · unfold wr modCpu setCpu
      cases h : s.turn <;> simp [setPu, cpu, pu, h]

theorem State.memoryAfter_wr (pa : PAddr) : (s.wr r v).memoryAfter pa = s.memoryAfter pa := by
  simp only [memoryAfter, victim, cacheSet, lineBase, lineBytes, wr_dcache, wr_params, wr_mem]

theorem State.useLine_dcache_wr (pa : PAddr) (d : PageDesc) (store : Bool) :
    ((s.wr r v).useLine pa d store).dcache = (s.useLine pa d store).dcache := by
  have h := unchanged_wr s r v
  have hps := fetchParts_not_mem_reg r
  simp only [useLine_dcache, usedWay, usedEntry, seenLine, memoryAfter_wr, h.cacheSet hps, h.lineBase hps,
    h.lineBytes hps, wr_dcache, wr_mem]

theorem State.accessed_wr (va : VAddr) (pa : PAddr) (d : PageDesc) (store : Bool) :
    (s.wr r v).accessed va pa d store = (s.accessed va pa d store).wr r v := by
  rw [accessed_fields, accessed_fields, useLine_dcache_wr, memoryAfter_wr, fillTlb_wr, wr_tlb]
  unfold wr modCpu setCpu
  cases h : s.turn <;> simp [setPu, cpu, pu, h]

theorem State.wr_with_mem (m : Memory) : ({ s.wr r v with mem := m } : State) = ({ s with mem := m } : State).wr r v := by
  unfold wr modCpu setCpu
  cases h : s.turn <;> simp [setPu, cpu, pu, h]

theorem State.noteHalf_wr (pa : PAddr) : (s.wr r v).noteHalf pa = (s.noteHalf pa).wr r v := by
  have h := unchanged_wr s r v
  have hps := fetchParts_not_mem_reg r
  unfold noteHalf
  rw [h.fetchChoices hps, h.halfIn hps, wr_stored]
  unfold wr modCpu setCpu
  cases h : s.turn <;> simp [setPu, cpu, pu, h]

end

/-! ### Byte accesses -/

theorem State.loadByte_wr (s : State) (r : Reg) (v : Word) (va : VAddr) :
    (s.wr r v).loadByte va = (s.loadByte va).map (fun x => (x.1, x.2.wr r v)) := by
  unfold loadByte
  dsimp only
  rw [translate_wr, wr_tick, fillTlb_wr]
  split
  · rfl
  · rfl
  · rw [accessed_wr, wr_mem]
    rfl

theorem State.storeByte_wr (s : State) (r : Reg) (v : Word) (va : VAddr) (b : Byte) :
    (s.wr r v).storeByte va b = (s.storeByte va b).map (fun t => t.wr r v) := by
  unfold storeByte
  dsimp only
  rw [translate_wr, fillTlb_wr]
  split
  · rfl
  · rfl
  · rw [accessed_wr, wr_mem, wr_with_mem, noteHalf_wr]
    rfl

/-- The state after a byte store of `b` at `pa` in page `d`, before the program counters advance. -/
def State.afterStoreByte (s : State) (va : VAddr) (pa : PAddr) (d : PageDesc) (b : Byte) : State :=
  (s.written va pa d (writeByte (s.memoryAfter pa) pa.toNat b)).noteHalf (halfBase pa)

theorem State.loadByte_of_allows {s : State} {va : VAddr} {d : PageDesc} (h : s.Allows va .load d) :
    s.loadByte va = .ok (readByte (s.memoryAfter (pageAddress d va)) (pageAddress d va).toNat,
      s.accessed va (pageAddress d va) d false) := by
  simp [loadByte, translate_of_allows h, accessed_fields]

theorem State.storeByte_of_allows {s : State} {va : VAddr} {d : PageDesc} (b : Byte) (h : s.Allows va .store d) :
    s.storeByte va b = .ok (s.afterStoreByte va (pageAddress d va) d b) := by
  simp [storeByte, translate_of_allows h, accessed_fields, afterStoreByte, written]

section
variable {s : State} {d p : Reg}

/-- LdB whose byte can be loaded: the access, the pointer, then the byte. -/
theorem exec_ldB_of_loadByte {b : Byte} {t : State} (h : s.loadByte (byteOfPointer (s.rd p)) = .ok (b, t)) :
    exec (.ldB d p) s = .next ((t.wr p (nextBytePtr (s.rd p))).wr d (zeroExtendByte b)).advance := by
  refine exec_ldB_of_ok (r := (b, t.wr p (nextBytePtr (s.rd p)))) ?_
  rw [State.loadByte_wr, h]
  rfl

/-- StB whose byte can be stored: the store, then the pointer. -/
theorem exec_stB_of_storeByte {t : State}
    (h : s.storeByte (byteOfPointer (s.rd p)) ((s.rd d).extractLsb' 0 8) = .ok t) :
    exec (.stB d p) s = .next (t.wr p (nextBytePtr (s.rd p))).advance := by
  refine exec_stB_of_ok ?_
  rw [State.storeByte_wr, h]
  rfl

end

/-! ### After a byte access -/

/-- What follows an access without touching memory, the caches or the record leaves it done. -/
theorem AccessDone.of_unchanged {s u t : State} {pa : PAddr} {d : PageDesc} {store : Bool} {ps : List Part}
    (h : AccessDone s u pa d store) (hend : Unchanged u t ps) (hps : ∀ p ∈ fetchParts, p ∉ ps) :
    AccessDone s t pa d store := by
  obtain ⟨hparams, -⟩ : Part.Same u t .model := hend _ (hps _ (by simp [fetchParts]))
  exact ⟨hparams.trans h.params, (hend .dataCache (hps _ (by simp [fetchParts]))).trans h.dcache,
    fun a ha => (hend .memory (hps _ (by simp [fetchParts])) a).trans (h.mem a ha)⟩

theorem accessDone_accessed (s : State) (va : VAddr) (pa : PAddr) (d : PageDesc) (store : Bool) :
    AccessDone s (s.accessed va pa d store) pa d store := by
  constructor <;> simp [State.accessed_fields]

theorem halfBase_toNat (pa : PAddr) : (halfBase pa).toNat = pa.toNat / 2 * 2 := by
  have hshift : halfBase pa = (pa >>> 1) <<< 1 := by
    apply BitVec.eq_of_getLsbD_eq
    intro i hi
    rw [halfBase, BitVec.getLsbD_and, BitVec.getLsbD_not, BitVec.getLsbD_shiftLeft, BitVec.getLsbD_ushiftRight]
    by_cases h : i = 0
    · simp [h]
    · simp [hi, h, show 1 + (i - 1) = i by omega, BitVec.getLsbD_one, -BitVec.getLsbD_eq_getElem]
  have hle : pa.toNat / 2 ^ 1 * 2 ^ 1 ≤ pa.toNat := Nat.div_mul_le_self ..
  rw [hshift, BitVec.toNat_shiftLeft, BitVec.toNat_ushiftRight, Nat.shiftRight_eq_div_pow, Nat.shiftLeft_eq,
    Nat.mod_eq_of_lt (by omega)]

theorem State.lineBase_halfBase (s : State) (pa : PAddr) : s.lineBase (halfBase pa) = s.lineBase pa := by
  apply BitVec.eq_of_toNat_eq
  rw [lineBase_toNat, lineBase_toNat, halfBase_toNat]
  obtain h | h | h | h | h := s.lineBytes_cases <;> rw [h] <;> omega

/-- One halfword stored to and recorded. -/
theorem recordsStores_noteHalf_one {s u : State} {a : PAddr} (hstored : u.stored = s.stored)
    (hu : s.CacheWf → u.fetchChoices a = s.fetchChoices a) : RecordsStores s (u.noteHalf a) [a] := by
  refine ⟨fun h hh => ?_, fun h hh => ?_⟩
  · obtain rfl := List.mem_singleton.mp hh
    refine ⟨u.storedHalf_noteHalf_self h, fun hc x => ?_⟩
    rw [State.mem_fetchChoices_noteHalf, hu hc]
    rfl
  · rw [State.storedHalf_noteHalf, if_neg (by simpa using hh)]
    simp only [State.storedHalf, hstored]

section
variable {s : State} (hm : memoryWf s.mem) (va : VAddr) (pa : PAddr) (d : PageDesc) (b : Byte)
include hm

/-- A byte store changes no byte outside its line. -/
theorem readByte_storeByte_outside {a : Nat} (ha : ¬s.inLine pa a) :
    readByte (writeByte (s.memoryAfter pa) pa.toNat b) a = readByte (s.memoryAfter pa) a := by
  rw [readByte_writeByte (State.memoryAfter_wf hm _), if_neg]
  rintro rfl
  refine ha (State.inLine_add (n := 1) ?_ le_rfl (by omega))
  obtain h | h | h | h | h := s.lineBytes_cases <;> rw [h] <;> omega

theorem accessDone_afterStoreByte : AccessDone s (s.afterStoreByte va pa d b) pa d true := by
  have hdone := accessDone_accessed s va pa d true
  exact ⟨hdone.params, hdone.dcache, fun a ha => readByte_storeByte_outside hm pa b ha⟩

theorem recordsStores_afterStoreByte : RecordsStores s (s.afterStoreByte va pa d b) [halfBase pa] := by
  refine recordsStores_noteHalf_one ?_ fun hc => ?_
  · rw [State.written, State.accessed_fields]
  · exact State.fetchChoices_written hm hc (fun a ha => readByte_storeByte_outside hm pa b ha) (s.lineBase_halfBase pa)

end

theorem unchanged_accessed (s : State) (va : VAddr) (pa : PAddr) (d : PageDesc) (store : Bool) :
    Unchanged s (s.accessed va pa d store) (accessParts ++ [.memory]) := by
  rw [State.accessed_fields]
  exact unchanged_memory (fun h => absurd (by simp [accessParts]) h) (fun h => absurd (by simp [accessParts]) h)
    (fun h => absurd (by simp) h) (fun _ => rfl)

theorem State.afterStoreByte_fields (s : State) (va : VAddr) (pa : PAddr) (d : PageDesc) (b : Byte) :
    ∃ q, s.afterStoreByte va pa d b = { s with
      tlb := (s.fillTlb va).tlb, dcache := (s.useLine pa d true).dcache
      mem := writeByte (s.memoryAfter pa) pa.toNat b, stored := q } := by
  refine ⟨(s.afterStoreByte va pa d b).stored, ?_⟩
  unfold afterStoreByte written
  rw [accessed_fields]
  rfl

theorem unchanged_afterStoreByte (s : State) (va : VAddr) (pa : PAddr) (d : PageDesc) (b : Byte) :
    Unchanged s (s.afterStoreByte va pa d b) (accessParts ++ [.memory, .stored]) := by
  obtain ⟨q, hq⟩ := s.afterStoreByte_fields va pa d b
  rw [hq]
  exact unchanged_memory (fun h => absurd (by simp [accessParts]) h) (fun h => absurd (by simp [accessParts]) h)
    (fun h => absurd (by simp) h) (fun h => absurd (by simp) h)

theorem zeroExtendByte_toNat (b : Byte) : (zeroExtendByte b).toNat = b.toNat := by
  rw [zeroExtendByte, BitVec.toNat_append]
  simp

/-- Settles O36: the access, after which only the pointer, the register loaded and the program counters change. -/
theorem byteAccesses : Obligations.ByteAccesses := by
  intro s d p pg hm va pa
  refine ⟨fun hallow => ?_, fun hallow => ?_⟩
  · have haccess := unchanged_accessed s va pa pg false
    have hturn := haccess.turn (by simp [accessParts])
    have hregs := (unchanged_wr (s.accessed va pa pg false) p (nextBytePtr (s.rd p))).trans (State.wr_turn ..)
      (unchanged_wr _ d (zeroExtendByte (readByte (s.memoryAfter pa) pa.toNat)))
    have hend := hregs.trans (by simp) (unchanged_advance _)
    have hps : ∀ q ∈ fetchParts, q ∉ [Part.reg p] ++ [.reg d] ++ stepParts := by simp [fetchParts, stepParts]
    have hmem : ∀ a, readByte _ a = readByte (s.memoryAfter pa) a := fun a => by
      refine (hend .memory (hps _ (by simp [fetchParts])) a).trans ?_
      rw [State.accessed_fields]
    refine ⟨_, exec_ldB_of_loadByte (State.loadByte_of_allows hallow), ?_, fun hne => ?_,
      advances_of_unchanged (haccess.trans hturn hregs) (by simp [accessParts]), ?_,
      ((accessDone_accessed s va pa pg false).of_unchanged hend hps).cacheAfter hm,
      fun a ha => (hmem a).trans (State.readByte_memoryAfter hm pa a ha)⟩
    · simp [zeroExtendByte_toNat, pa, va]
    · simp [PU.writeDest_get_other _ _ hne.symm]
    · refine (haccess.trans hturn hend).mono fun q hq => ?_
      simp only [List.mem_append, List.mem_cons] at hq ⊢
      tauto
  · have hstore := unchanged_afterStoreByte s va pa pg ((s.rd d).extractLsb' 0 8)
    have hturn := hstore.turn (by simp [accessParts])
    have hreg := unchanged_wr (s.afterStoreByte va pa pg ((s.rd d).extractLsb' 0 8)) p (nextBytePtr (s.rd p))
    have hend := hreg.trans (by simp) (unchanged_advance _)
    have hps : ∀ q ∈ fetchParts, q ∉ [Part.reg p] ++ stepParts := by simp [fetchParts, stepParts]
    have hmem : ∀ a, readByte _ a = if a = pa.toNat then (s.rd d).extractLsb' 0 8 else readByte (s.memoryAfter pa) a :=
      fun a => (hend .memory (hps _ (by simp [fetchParts])) a).trans (readByte_writeByte (State.memoryAfter_wf hm pa) ..)
    refine ⟨_, exec_stB_of_storeByte (State.storeByte_of_allows _ hallow), ?_, by simp,
      advances_of_unchanged (hstore.trans hturn hreg) (by simp [accessParts]), ?_,
      ((accessDone_afterStoreByte hm va pa pg _).of_unchanged hend hps).cacheAfter hm,
      (recordsStores_afterStoreByte hm va pa pg _).of_unchanged hend hps, fun a ha hkept => ?_⟩
    · rw [hmem, if_pos rfl, BitVec.setWidth_eq_extractLsb' (by decide)]
    · refine (hstore.trans hturn hend).mono fun q hq => ?_
      simp only [List.mem_append, List.mem_cons] at hq ⊢
      tauto
    · rw [hmem, if_neg ha, State.readByte_memoryAfter hm pa a hkept]

end Sys2Proof.Machine
end

section
/-! PROOFS. Byte accesses that fault with their pointer stepped, and runs of LdM and StM that fault at one of their
words (40_load_store_move.md R163, R165, R174, R175; 60_exceptions.md R356, R357), and O41. -/

namespace Sys2Proof.Machine

/-! ### Byte accesses -/

theorem byteAccess_faultsWith {s : State} {d p : Reg} {n : Nat} {i : Instr} {k : AccessKind}
    (hi : (k = .load ∧ i = .ldB d p) ∨ (k = .store ∧ i = .stB d p))
    (hfault : s.DataFaultIs (byteOfPointer (s.rd p)) k n) :
    FaultsWith i s n (s.rd p) [.reg p] ∧ ∀ t, exec i s = .next t → t.cpu.reg p = nextBytePtr (s.rd p) := by
  obtain ⟨f, rfl, htranslate⟩ := hfault.translate (hi.imp And.left And.left)
  rw [← s.translate_wr p (nextBytePtr (s.rd p))] at htranslate
  obtain ⟨rfl, rfl⟩ | ⟨rfl, rfl⟩ := hi
  · exact faultsWith_of_stepped (exec_ldB_of_fault (State.loadByte_of_error htranslate))
  · exact faultsWith_of_stepped (exec_stB_of_fault (State.storeByte_of_error _ htranslate))

/-! ### What a faulting transfer leaves -/

/-- RCnt as a fault on R_k may leave it (U11, L29). -/
def countAtFault (status : Word) (k : Nat) : Prop :=
  status.extractLsb' 28 4 = BitVec.ofNat 4 k ∨ status.extractLsb' 28 4 = BitVec.ofNat 4 (k + 1)

theorem PU.withRCnt_count (u : PU) (k : BitVec 4) : (u.withRCnt k).sscr.extractLsb' 28 4 = k := by
  rw [withRCnt]
  exact BitVec.extractLsb'_append_eq_left

theorem State.countAtFault_faultCount (s : State) (k : Nat) : countAtFault (s.faultCount k).cpu.sscr k := by
  unfold countAtFault State.faultCount
  rw [modCpu_cpu, PU.withRCnt_count]
  split
  · exact .inr rfl
  · exact .inl rfl

theorem State.countAtFault_faultAddress (s : State) (r : Reg) (a : Word) (n k : Nat)
    (h : countAtFault s.cpu.sscr k) : countAtFault (s.faultAddress r a n k).cpu.sscr k := by
  unfold State.faultAddress
  split
  · simpa using h
  · exact h

/-- The PU that issued `x` took exception `n` at the word at `wa`, with RCnt in the status it saved. -/
structure Transfer.FaultedAt (s t : State) (x : Transfer) (n : Nat) (wa : WAddr) : Prop where
  entry : t.AtEntry s.turn n
  arg : t.cpu.trapArg = BitVec.ofNat 32 wa.toNat
  head : t.cpu.qHead = s.cpu.pc
  tail : t.cpu.qTail = s.cpu.npc
  status : t.cpu.statusSave.extractLsb' 0 28 = s.cpu.sscr.extractLsb' 0 28
  count : countAtFault t.cpu.statusSave x.next.val
  frame : Unchanged s t (entryParts ++ [.trapArg, .reg x.addr])

/-- A fault once RCnt and RegA are as the transfer leaves them. -/
theorem Transfer.faultedAt_of_unchanged {s u : State} {x : Transfer} (h : Unchanged s u (countParts ++ [.reg x.addr]))
    (hcount : countAtFault u.cpu.sscr x.next.val) (hT : s.cpu.flagT = true) (f : MemFault) (wa : WAddr) :
    x.FaultedAt s (u.dataFault f (zeroExtend30 wa)) (dataFaultNumber f).val wa ∧
      (u.dataFault f (zeroExtend30 wa)).cpu.reg x.addr = u.cpu.reg x.addr := by
  obtain ⟨hentry, harg, hframe⟩ := dataFault_of_unchanged h (by simp [countParts]) (by simp [countParts]) f
    (zeroExtend30 wa)
  have hflag : u.cpu.flagT = s.cpu.flagT := h (.status 11) (by simp [countParts])
  obtain ⟨hpc, hnpc⟩ := h .counters (by simp [countParts])
  obtain ⟨hstatus, hhead, htail⟩ := State.dataFault_saved f (zeroExtend30 wa) (hflag.trans hT)
  rw [if_pos hT] at hentry
  refine ⟨⟨hentry, (harg hT).trans (zeroExtend30_eq wa), hhead.trans hpc, htail.trans hnpc, ?_, ?_, ?_⟩, ?_⟩
  · rw [hstatus]
    ext b hb
    have hbit : u.cpu.sscr.getLsbD b = s.cpu.sscr.getLsbD b := h (.status ⟨b, by omega⟩) (by
      simp only [countParts, List.mem_append, List.mem_cons, Part.status.injEq, Fin.ext_iff]
      simp
      omega)
    simpa [hb] using hbit
  · rwa [hstatus]
  · refine hframe.mono fun p hp => ?_
    have hcounted : p ∈ countParts → p ∈ entryParts := fun h => by
      simp only [countParts, List.mem_cons, List.not_mem_nil, or_false] at h
      obtain rfl | rfl | rfl | rfl := h <;> exact status_mem_entryParts _
    simp only [List.mem_append, List.mem_cons] at hp ⊢
    tauto
  · exact unchanged_dataFault u f (zeroExtend30 wa) (.reg x.addr) (by simp [entryParts])

/-! ### The transfers -/

theorem State.faultAddress_reg_of_ne (s : State) (r : Reg) (a : Word) (n : Nat) {k : Nat} (hk : k ≠ 1) :
    (s.faultAddress r a n k).cpu.reg r = s.cpu.reg r := by
  rw [faultAddress, if_neg hk]

theorem State.faultAddress_reg_first (s : State) (r : Reg) (a : Word) (n : Nat) :
    (s.faultAddress r a n 1).cpu.reg r = a ∨ (s.faultAddress r a n 1).cpu.reg r = a + BitVec.ofNat 32 n := by
  rw [faultAddress, if_pos rfl]
  split
  · exact .inr (by simp)
  · exact .inl (by simp)

theorem fault_loadTransfer {s : State} {x : Transfer} {n : Nat} (hover : runOverlaps x.count x.addr = false)
    (hT : s.cpu.flagT = true) (h : s.DataFaultIs (byteOfWord x.loadAddress) .load n) :
    x.FaultedAt s (s.loadTransfer x) n x.loadAddress ∧
      (x.next.val ≠ 1 → (s.loadTransfer x).cpu.reg x.addr = s.cpu.reg x.addr) ∧
      (x.next.val = 1 → (s.loadTransfer x).cpu.reg x.addr = x.base ∨
        (s.loadTransfer x).cpu.reg x.addr = x.base + BitVec.ofNat 32 x.count.val) := by
  obtain ⟨f, rfl, htranslate⟩ := h.translate (.inl rfl)
  rw [← s.translate_atCount x] at htranslate
  have hcount := (unchanged_atCount s x).trans (s.atCount_turn x) (unchanged_faultCount (s.atCount x) x.next.val)
  have hprepared := hcount.trans (by simp [State.faultCount])
    (unchanged_faultAddress _ x.addr x.base x.count.val x.next.val)
  rw [loadTransfer_of_error hover (State.loadWord_of_error htranslate)]
  obtain ⟨hfaulted, hreg⟩ := Transfer.faultedAt_of_unchanged (hprepared.mono (by simp))
    (State.countAtFault_faultAddress _ _ _ _ _ (State.countAtFault_faultCount _ _)) hT f x.loadAddress
  refine ⟨hfaulted, fun hk => ?_, fun hk => ?_⟩
  · exact hreg.trans ((State.faultAddress_reg_of_ne _ _ _ _ hk).trans (hcount (.reg x.addr) (by simp [countParts])))
  · rw [hreg, hk]
    exact State.faultAddress_reg_first _ _ _ _

theorem fault_storeTransfer {s : State} {x : Transfer} {n : Nat} (hover : runOverlaps x.count x.addr = false)
    (hT : s.cpu.flagT = true) (h : s.DataFaultIs (byteOfWord (addressOf x.storeAddress)) .store n) :
    x.FaultedAt s (s.storeTransfer x) n (addressOf x.storeAddress) ∧
      (s.storeTransfer x).cpu.reg x.addr = x.storeAddress := by
  obtain ⟨f, rfl, htranslate⟩ := h.translate (.inr rfl)
  rw [← s.translate_wr x.addr x.storeAddress, ← (s.wr x.addr x.storeAddress).translate_atCount x] at htranslate
  have hcount := (unchanged_atCount (s.wr x.addr x.storeAddress) x).trans (State.atCount_turn _ x)
    (unchanged_faultCount ((s.wr x.addr x.storeAddress).atCount x) x.next.val)
  have hprepared := (unchanged_wr s x.addr x.storeAddress).trans (State.wr_turn ..) hcount
  rw [storeTransfer_of_error hover (State.storeWord_of_error _ htranslate)]
  obtain ⟨hfaulted, hreg⟩ := Transfer.faultedAt_of_unchanged (hprepared.mono (by simp))
    (State.countAtFault_faultCount _ _) hT f (addressOf x.storeAddress)
  refine ⟨hfaulted, hreg.trans ((hcount (.reg x.addr) (by simp [countParts])).trans ?_)⟩
  simp

/-- The first transfer of a run is the instruction's own step. -/
theorem exec_of_firstTransfer {s : State} {x : Transfer} (hnext : 1 ≤ x.next.val) (hfirst : x.next = x.count)
    (hbase : x.base = s.rd x.addr) :
    exec (if x.load then .ldM x.count x.addr else .stM x.count x.addr) s = .next (s.transferOne x) := by
  obtain ⟨load, count, addr, base, next⟩ := x
  dsimp only at hnext hfirst hbase
  subst hfirst hbase
  have hnonempty : next ≠ 0 := by
    rintro rfl
    exact absurd hnext (by decide)
  cases load
  · exact (exec_stM ..).trans (if_neg hnonempty)
  · exact (exec_ldM ..).trans (if_neg hnonempty)

theorem State.continueRun_of_move {s : State} {x : Transfer} (h : s.cpu.run = some (.move x)) :
    s.continueRun = s.transferOne x := by
  rw [continueRun, h]

/-- Settles O41: each access's translation fails once the pointer, or RCnt and StM's RegA, are written. -/
theorem byteAndRunFaults : Obligations.ByteAndRunFaults := by
  refine ⟨fun s d p n i k => byteAccess_faultsWith, fun s x n wa hnext _ hover hT hload hstore hfault =>
    ⟨s.transferOne x, exec_of_firstTransfer hnext, State.continueRun_of_move, ?_⟩⟩
  unfold State.transferOne
  cases hkind : x.load with
  | true =>
    obtain rfl : wa = x.loadAddress := hload hkind
    rw [hkind] at hfault
    obtain ⟨⟨hentry, harg, hhead, htail, hstatus, hcount, hframe⟩, hkept, hlast⟩ := fault_loadTransfer hover hT hfault
    exact ⟨hentry, harg, hhead, htail, hstatus, hcount, fun h => absurd h (by simp), fun _ => hkept,
      fun _ => hlast, hframe⟩
  | false =>
    obtain rfl : wa = addressOf x.storeAddress := hstore hkind
    rw [hkind] at hfault
    obtain ⟨⟨hentry, harg, hhead, htail, hstatus, hcount, hframe⟩, hreg⟩ := fault_storeTransfer hover hT hfault
    exact ⟨hentry, harg, hhead, htail, hstatus, hcount, fun _ => hreg, fun h => absurd h (by simp),
      fun h => absurd h (by simp), hframe⟩

end Sys2Proof.Machine
end

section
/-! PROOFS. O37 and O38 fail: neither asks for a well formed data cache (`State.CacheWf`). Where one line stands in
two entries, one of a user page and one of a system page, the first transfer of a run can replace the first of them;
the next transfer then finds the second, whose tag denies the access (20_memory.md R101), and the run faults. -/

namespace Sys2Proof.Machine

/-! ### A cache with a line in two entries -/

/-- Way 0 and way 1 both hold the line at address 0; to a user, way 0 allows it and way 1 does not. -/
def twinSet : CacheSet :=
  ⟨#v[⟨true, false, false, true, 0, none, 0⟩, ⟨true, false, false, false, 0, none, 0⟩, .empty, .empty], [0, 1, 2, 3]⟩

/-- A user program with traps enabled, `twinSet` as its data cache's set 0, lines of one word, and R3 = 2. -/
def twinState : State :=
  { State.reset with
    params := { Params.reset with lineLog := 0 }
    pu0 := { State.reset.pu0 with sscr := 0x1800, regs := State.reset.pu0.regs.set 3 2 }
    dcache := State.reset.dcache.set 0 twinSet }

/-- The first transfer of StM R2 (R3): R2 to word 1. -/
def twinStore : Transfer := ⟨false, 2, 3, 2, 2⟩

/-- Every lookup in `twinSet` that finds a line finds way 0. -/
theorem twinSet_findWay {base : PAddr} {w : Fin 4} (h : twinSet.findWay base = some w) : w = 0 := by
  by_cases hbase : base = 0
  · rw [hbase] at h
    exact (Option.some.inj h).symm
  · have hzero : ∀ v : Fin 4, (twinSet.way v).base = 0 := by decide +kernel
    unfold CacheSet.findWay at h
    have hmatch := List.find?_some h
    simp only [hzero, Bool.and_eq_true, beq_iff_eq] at hmatch
    exact absurd hmatch.2.symm hbase

theorem emptySet_findWay (base : PAddr) : CacheSet.empty.findWay base = none := rfl

theorem twinState_cacheSet (i : Fin 16) : twinState.cacheSet i = twinSet ∨ twinState.cacheSet i = .empty := by
  revert i
  decide +kernel

theorem twinState_lineAt_user {pa : PAddr} {e : CacheLine} (h : twinState.lineAt pa = some e) : e.user = true := by
  unfold State.lineAt at h
  split at h
  · cases h
  · rename_i w hfind
    obtain rfl := Option.some.inj h
    obtain hset | hset := twinState_cacheSet (setIndex pa)
    · rw [hset] at hfind ⊢
      rw [twinSet_findWay hfind]
      rfl
    · rw [hset, emptySet_findWay] at hfind
      cases hfind

theorem twinState_identityMap : twinState.IdentityMap := by
  refine ⟨rfl, fun pa k => ?_⟩
  unfold State.tagDenies
  split
  · simp
  · simp [twinState_lineAt_user ‹_›]

theorem twinState_noStale : twinState.NoStale := by
  unfold State.NoStale
  decide +kernel

theorem twinState_user : twinState.cpu.flagU = true := by decide +kernel

theorem exec_twinStore : exec (.stM 2 3) twinState = .next (twinState.transferOne twinStore) := rfl

/-! ### The second transfer faults -/

theorem State.AtEntry.flagU {t : State} {p : PuId} {n : Nat} (h : t.AtEntry p n) : (t.pu p).flagU = false := by
  obtain ⟨-, -, hlow, -⟩ := h
  have hbit := congrArg (fun v => v.getLsbD 12) hlow
  simpa [PU.flagU] using hbit

theorem State.dataFault_system (s : State) (f : MemFault) (ptr : Word) : (s.dataFault f ptr).cpu.flagU = false := by
  have h := (s.dataFault_takesTrap f ptr).atEntry.flagU
  have hturn : (s.dataFault f ptr).turn = s.turn := by simp [dataFault]
  rwa [← hturn] at h

/-- Word 1 was missed, and its line replaced way 0: a store to word 0 finds way 1. -/
theorem twinStore_denied : (twinState.transferOne twinStore).DataFaultIs 0 .store 0x15 :=
  .inr ⟨TlbEntry.identity.desc, by decide +kernel, rfl, .inr (.inr (.inr
    ⟨by decide +kernel, by decide +kernel, ⟨true, false, false, false, 0, none, 0⟩, by decide +kernel,
      by decide +kernel⟩))⟩

theorem twinStore_run :
    (twinState.transferOne twinStore).cpu.run = some (.move { twinStore with next := 1 }) := by
  decide +kernel

/-- The run ends in a data access fault, in system mode. -/
theorem twinStore_faults : (twinState.transferOne twinStore).continueRun.cpu.flagU = false := by
  obtain ⟨f, -, htranslate⟩ := twinStore_denied.translate (.inr rfl)
  rw [State.continueRun_of_move twinStore_run]
  have hfault := storeTransfer_of_error (s := twinState.transferOne twinStore) (x := { twinStore with next := 1 })
    (by decide) (State.storeWord_of_error _ (by
      rw [State.translate_atCount, State.translate_wr]
      exact htranslate))
  unfold State.transferOne
  rw [if_neg (by decide)]
  exact (congrArg (fun t : State => t.cpu.flagU) hfault).trans (State.dataFault_system ..)

/-- Refutes O37: StM R2 (R3) from `twinState` faults at its second word, where the statement has it complete. -/
theorem not_multipleRuns : ¬ Obligations.MultipleRuns := by
  rintro ⟨-, hstore⟩
  have hcompletes := hstore twinState 2 3 (fun _ => TlbEntry.identity.desc) (by decide) (by decide) (by decide)
    twinState_noStale
  dsimp only at hcompletes
  obtain ⟨t, ht, -, -, -, -, -, -, -, -, hframe⟩ := hcompletes
    (by unfold State.Hits; decide +kernel) (by decide +kernel)
  obtain rfl := Host.Outcome.next.inj (ht.symm.trans exec_twinStore)
  have hkept : (twinState.transferOne twinStore).continueRun.cpu.flagU = twinState.cpu.flagU :=
    hframe (.status 12) (by decide +kernel)
  rw [twinStore_faults, twinState_user] at hkept
  cases hkept

/-! ### System mode stays through a LdM -/

/-- In system mode, with nothing left of an instruction but loads into registers other than their address's. -/
def PU.SystemLoads (u : PU) : Prop :=
  u.flagU = false ∧ ∀ x, u.run = some (.move x) → x.load = true ∧ runOverlaps x.count x.addr = false

theorem PU.systemLoads_of_run_none {u : PU} (hsystem : u.flagU = false) (hrun : u.run = none) : u.SystemLoads :=
  ⟨hsystem, fun x hx => by rw [hrun] at hx; cases hx⟩

theorem State.dataFault_systemLoads (s : State) (f : MemFault) (ptr : Word) :
    (s.dataFault f ptr).cpu.SystemLoads := by
  have hturn : (s.dataFault f ptr).turn = s.turn := by simp [dataFault]
  obtain ⟨-, -, -, -, -, -, -, hrun, -, -⟩ := (s.dataFault_takesTrap f ptr).atEntry
  rw [← hturn] at hrun
  exact PU.systemLoads_of_run_none (s.dataFault_system f ptr) hrun

/-- A load of LdM completes in system mode, or enters an exception. -/
theorem loadTransfer_systemLoads {s : State} {x : Transfer} (hload : x.load = true)
    (hover : runOverlaps x.count x.addr = false) (h : s.cpu.flagU = false) :
    (s.loadTransfer x).cpu.SystemLoads := by
  cases hword : (s.atCount x).loadWord x.loadAddress with
  | error f =>
    rw [loadTransfer_of_error hover hword]
    exact State.dataFault_systemLoads ..
  | ok r =>
    obtain ⟨v, t⟩ := r
    have hcpu : t.cpu = (s.atCount x).cpu := by
      obtain ⟨pa, d, l, c, -, -, rfl⟩ | ⟨-, -, l, rfl⟩ := State.loadWord_ok hword <;> rfl
    have hloaded : (t.wr x.next v).cpu.flagU = false := by
      have hcount : (s.atCount x).cpu.flagU = s.cpu.flagU := unchanged_atCount s x (.status 12) (by decide)
      rw [← h, ← hcount, ← hcpu]
      simp [PU.flagU]
    rw [loadTransfer_of_ok hword]
    split
    · obtain ⟨u, hend, hframe⟩ := endLoads_of_disjoint hover (t.wr x.next v)
      have hended : u.advance.cpu.flagU = (t.wr x.next v).cpu.flagU :=
        (unchanged_advance u (.status 12) (by decide)).trans (hframe (.status 12) (by simp [countParts]))
      rw [hend]
      exact PU.systemLoads_of_run_none (hended.trans hloaded) (by simp [PU.sequential])
    · obtain ⟨-, hrun, hframe⟩ := State.runOn_waits (t.wr x.next v) x
      refine ⟨(hframe (.status 12) (by simp)).trans hloaded, fun y hy => ?_⟩
      obtain rfl := Rest.move.inj (Option.some.inj (hrun.symm.trans hy))
      exact ⟨hload, hover⟩

theorem State.continueRun_systemLoads {s : State} (h : s.cpu.SystemLoads) : s.continueRun.cpu.SystemLoads := by
  unfold continueRun
  split
  · rename_i x hx
    obtain ⟨hload, hover⟩ := h.2 x hx
    rw [transferOne, if_pos hload]
    exact loadTransfer_systemLoads hload hover h.1
  all_goals exact h

/-- Refutes O38: StM R2 (R3) from `twinState` faults at its second word and so ends in system mode, which the LdM
after it keeps, where the statement has the program back in user mode. -/
theorem not_storeLoadMultipleInverse : ¬ Obligations.StoreLoadMultipleInverse := by
  intro hinverse
  obtain ⟨t, u, ht, hu, -, hframe⟩ := hinverse twinState 2 3 (by decide) (by decide) (by decide) twinState_noStale
    twinState_identityMap (by decide +kernel)
  obtain rfl := Host.Outcome.next.inj (ht.symm.trans exec_twinStore)
  rw [exec_ldM, if_neg (by decide)] at hu
  obtain rfl := Host.Outcome.next.inj hu
  have hkept := hframe (.status 12) (by decide +kernel)
  have hsystem := State.continueRun_systemLoads (loadTransfer_systemLoads
    (x := ⟨true, 2, 3, (twinState.transferOne twinStore).continueRun.rd 3, 2⟩) rfl rfl twinStore_faults)
  exact absurd (hsystem.1.symm.trans (hkept.trans twinState_user)) Bool.false_ne_true

end Sys2Proof.Machine
end

section
/-! SUPPORT. The condition codes as the shared operations write them (10_state.md R40, R44, R49), with their frames, and
a trap raised after other changes. -/

namespace Sys2Proof.Machine

/-! ### The condition codes -/

/-- The condition codes, bit by bit; the other bits of SSCR stay. -/
theorem withFlags_getLsbD (w : Word) (f : Flags) (j : Nat) :
    (withFlags w f).getLsbD j =
      if j = 22 then f.c3 else if j = 21 then f.c2 else if j = 20 then f.c1 else if j = 19 then f.c0
      else if j = 18 then f.v else if j = 17 then f.n else if j = 16 then f.z else w.getLsbD j := by
  simp only [withFlags, setBit_getLsbD, Nat.reduceLT]

section
variable (s : State) (f : Flags)

theorem State.setFlags_flagZ : (s.setFlags f).cpu.flagZ = f.z := by
  simp [PU.flagZ, withFlags_getLsbD, -BitVec.getLsbD_eq_getElem]
theorem State.setFlags_flagN : (s.setFlags f).cpu.flagN = f.n := by
  simp [PU.flagN, withFlags_getLsbD, -BitVec.getLsbD_eq_getElem]
theorem State.setFlags_flagV : (s.setFlags f).cpu.flagV = f.v := by
  simp [PU.flagV, withFlags_getLsbD, -BitVec.getLsbD_eq_getElem]
theorem State.setFlags_carry0 : (s.setFlags f).cpu.carry 0 = f.c0 := by
  simp [PU.carry, withFlags_getLsbD, -BitVec.getLsbD_eq_getElem]
theorem State.setFlags_carry1 : (s.setFlags f).cpu.carry 1 = f.c1 := by
  simp [PU.carry, withFlags_getLsbD, -BitVec.getLsbD_eq_getElem]
theorem State.setFlags_carry2 : (s.setFlags f).cpu.carry 2 = f.c2 := by
  simp [PU.carry, withFlags_getLsbD, -BitVec.getLsbD_eq_getElem]
theorem State.setFlags_carry3 : (s.setFlags f).cpu.carry 3 = f.c3 := by
  simp [PU.carry, withFlags_getLsbD, -BitVec.getLsbD_eq_getElem]

end

/-- A write of SSCR alone changes the bits it differs in. -/
theorem unchanged_mapStatus {s : State} {g : Word → Word} {ps : List Part}
    (h : ∀ b : Fin 32, Part.status b ∉ ps → (g s.cpu.sscr).getLsbD b.val = s.cpu.sscr.getLsbD b.val) :
    Unchanged s (s.modCpu (fun u => { u with sscr := g u.sscr })) ps :=
  unchanged_setCpu (u := { s.cpu with sscr := g s.cpu.sscr })
    (e := (s.modCpu (fun u => { u with sscr := g u.sscr })).event)
    (fun _ _ => rfl) h (fun _ => ⟨rfl, rfl⟩) (fun _ => rfl) (fun _ => rfl) (fun _ => rfl) (fun _ => rfl) (fun _ => rfl)
    (fun _ => ⟨rfl, rfl⟩) (fun _ => rfl) (fun _ => rfl) (fun _ => rfl) (fun _ => rfl) (fun _ => rfl) (fun _ => rfl)
    (fun _ _ => rfl) (fun _ => rfl)

theorem withFlags_getLsbD_other (w : Word) (f : Flags) {b : Fin 32} (hb : Part.status b ∉ flagParts) :
    (withFlags w f).getLsbD b.val = w.getLsbD b.val := by
  have hout : b.val < 16 ∨ 22 < b.val := by
    revert b
    decide
  rw [withFlags_getLsbD]
  grind

theorem unchanged_setFlags (s : State) (f : Flags) : Unchanged s (s.setFlags f) flagParts :=
  unchanged_mapStatus (g := fun w => withFlags w f) fun _ hb => withFlags_getLsbD_other _ f hb

section
variable (s : State) (n z : Bool)

theorem State.setNZ_flagN : (s.setNZ n z).cpu.flagN = n := by
  simp [PU.flagN, setBit_getLsbD, -BitVec.getLsbD_eq_getElem]

theorem State.setNZ_flagZ : (s.setNZ n z).cpu.flagZ = z := by
  simp [PU.flagZ, setBit_getLsbD, -BitVec.getLsbD_eq_getElem]

theorem State.setNZ_flagV : (s.setNZ n z).cpu.flagV = false := by
  simp [PU.flagV, -BitVec.getLsbD_eq_getElem]

theorem unchanged_setNZ : Unchanged s (s.setNZ n z) nzvParts :=
  unchanged_mapStatus (g := fun w => setBit (setBit (setBit w 16 z) 17 n) 18 false) fun b hb => by
    simp only [nzvParts, List.mem_cons, Part.status.injEq, List.not_mem_nil, or_false, not_or] at hb
    obtain ⟨h16, h17, h18⟩ : b.val ≠ 16 ∧ b.val ≠ 17 ∧ b.val ≠ 18 := by omega
    simp only [setBit_getLsbD, Nat.reduceLT, if_neg, h16, h17, h18, not_false_eq_true]

end

/-- N and Z set to those of a word describe it (10_state.md R44). -/
theorem State.setNZ_signOf (s : State) (w : Word) : (s.setNZ w.msb (w == 0)).cpu.SignOf w := by
  refine ⟨?_, ?_⟩
  · rw [setNZ_flagN, BitVec.msb_eq_toInt, decide_eq_true_iff]
  · rw [setNZ_flagZ, beq_iff_eq]

@[simp] theorem PU.sequential_flagN (u : PU) : u.sequential.flagN = u.flagN := rfl
@[simp] theorem PU.sequential_flagZ (u : PU) : u.sequential.flagZ = u.flagZ := rfl
@[simp] theorem PU.sequential_flagV (u : PU) : u.sequential.flagV = u.flagV := rfl
@[simp] theorem PU.sequential_flagF (u : PU) : u.sequential.flagF = u.flagF := rfl
@[simp] theorem PU.sequential_carry (u : PU) (k : Nat) : u.sequential.carry k = u.carry k := rfl

/-! ### The end of an instruction that writes a register -/

theorem writes_of_advance {i : Instr} {s u : State} {r : Reg} {v : Word} {also : List Part} {post : State → Prop}
    (h : exec i s = .next u.advance) (hframe : Unchanged s u ([.reg r] ++ also))
    (hown : ∀ p ∈ [Part.counters, .model], p ∉ also) (hreg : u.cpu.reg r = v) (hpost : post u.advance) :
    Writes i s r v also post := by
  have hmodel : Part.model ∉ [Part.reg r] ++ also := by simpa using hown .model (by simp)
  have hcounters : Part.counters ∉ [Part.reg r] ++ also := by simpa using hown .counters (by simp)
  refine ⟨_, h, ?_, hpost, advances_of_unchanged hframe hcounters, ?_⟩
  · rw [State.advance_cpu]
    exact hreg
  · refine (hframe.trans (hframe.turn hmodel) (unchanged_advance u)).mono fun p hp => ?_
    simp only [List.mem_append] at hp ⊢
    tauto

/-- A register written, with N and Z those of `w` and V clear, and the step. -/
theorem writes_of_wr_setNZ {i : Instr} {s : State} {r : Reg} {v w : Word}
    (h : exec i s = .next ((s.wr r v).setNZ w.msb (w == 0)).advance) :
    Writes i s r v nzvParts (fun t => t.cpu.SignOf w ∧ t.cpu.flagV = false) := by
  have hreg : ((s.wr r v).setNZ w.msb (w == 0)).cpu.reg r = (s.wr r v).cpu.reg r :=
    unchanged_setNZ _ _ _ (.reg r) (by simp [nzvParts])
  refine writes_of_advance h ((unchanged_wr s r v).trans (State.wr_turn ..) (unchanged_setNZ _ _ _))
    (by simp [nzvParts]) (hreg.trans (by simp)) ?_
  rw [State.advance_cpu]
  exact ⟨State.setNZ_signOf _ w, State.setNZ_flagV _ _ _⟩

/-! ### A result stored with its flags -/

section
variable (s : State) (rb : Reg) (r : Word × Flags)

theorem unchanged_wr_setFlags : Unchanged s ((s.wr rb r.1).setFlags r.2) (flagParts ++ [.reg rb]) :=
  ((unchanged_wr s rb r.1).trans (State.wr_turn ..) (unchanged_setFlags _ r.2)).mono (by simp)

theorem unchanged_commitPartial :
    Unchanged s (s.commitPartial rb r) (stepParts ++ flagParts ++ [.reg rb]) :=
  ((unchanged_wr_setFlags s rb r).trans (by simp) (unchanged_advance _)).mono (by simp)

theorem advances_commitPartial : Advances s (s.commitPartial rb r) :=
  advances_of_unchanged (unchanged_wr_setFlags s rb r) (by simp [flagParts])

theorem reg_wr_setFlags : ((s.wr rb r.1).setFlags r.2).cpu.reg rb = r.1 :=
  (unchanged_setFlags (s.wr rb r.1) r.2 (.reg rb) (by simp [flagParts])).trans (by simp)

theorem State.commitPartial_cpu :
    (s.commitPartial rb r).cpu = ((s.wr rb r.1).setFlags r.2).cpu.sequential := advance_cpu _

end

/-! ### A trap raised after other changes -/

theorem flagParts_subset_entryParts : flagParts ⊆ entryParts := by
  simp [flagParts, status_mem_entryParts]

/-- A trap raised on a state that keeps the program counters and T stands at the entry that the first state's T
selects, saves those counters with the status then reached, and changes what its entry changes besides. -/
theorem raise_of_unchanged {s u : State} {ps : List Part} (h : Unchanged s u ps)
    (hps : ∀ p ∈ [Part.counters, .model, .status 11], p ∉ ps) {n : Fin 32} (hcounter : n ≠ numEventCounter)
    (hexternal : n ≠ numExternal) :
    (u.raise n).AtEntry s.turn (if s.cpu.flagT then n.val else 0x1E) ∧
      (s.cpu.flagT = true → (u.raise n).Saved s.turn u.cpu.sscr s.cpu.pc s.cpu.npc) ∧
      Unchanged s (u.raise n) (ps ++ entryParts) := by
  have hturn : u.turn = s.turn := h.turn (hps _ (by simp))
  obtain ⟨hpc, hnpc⟩ : Part.Same s u .counters := h _ (hps _ (by simp))
  have hT : u.cpu.flagT = s.cpu.flagT := h (.status 11) (hps _ (by simp))
  rw [← hturn, ← hT, ← hpc, ← hnpc]
  exact ⟨u.raiseAt_atEntry n _, fun hon => State.raiseAt_saved n _ hon,
    h.trans hturn (unchanged_raise u hcounter hexternal)⟩

@[simp] theorem State.raise_inflight (s : State) (n : Fin 32) : (s.raise n).cpu.inflight = s.cpu.inflight := by
  have hpu := s.enter_pu_self s.turn (if s.cpu.flagT then n else numMachineCheck) (s.cpu.pc, s.cpu.npc)
  obtain ⟨-, -, -, -, -, -, -, hflight, -⟩ :=
    (s.pu s.turn).enter_frame s.turn s.tick (if s.cpu.flagT then n else numMachineCheck) (s.cpu.pc, s.cpu.npc)
  show ((s.raise n).pu (s.raise n).turn).inflight = _
  rw [raise_turn]
  exact (congrArg PU.inflight hpu).trans hflight

end Sys2Proof.Machine
end

section
/-! PROOFS. Full-word sums and differences (41_arithmetic.md R200 to R204, R210 to R214) and CLZ (R206). -/

namespace Sys2Proof.Machine

/-! ### The add core (R200) -/

/-- A word and flags that are those of a sum or difference: `exact` its signed value without bound, `carry` its
carry out (10_state.md R44). -/
def IsSum (r : Word × Flags) (exact : Int) (carry : Prop) : Prop :=
  r.1 = BitVec.ofInt 32 exact ∧ (r.2.n = true ↔ exact < 0) ∧ (r.2.z = true ↔ BitVec.ofInt 32 exact = 0#32) ∧
    (r.2.v = true ↔ SignedOverflow exact) ∧ (r.2.c0 = true ↔ carry) ∧ r.2.c1 = false ∧ r.2.c2 = false ∧
    r.2.c3 = false

theorem toInt_not_word (x : Word) : (~~~x).toInt = -x.toInt - 1 := by
  rw [BitVec.toInt_eq_toNat_cond, BitVec.toInt_eq_toNat_cond, BitVec.toNat_not]
  split <;> split <;> omega

theorem addCore_isSum (d x : Word) (cin : Bool) :
    IsSum (addCore d x cin) (d.toInt + x.toInt + cin.toNat) (2 ^ 32 ≤ d.toNat + x.toNat + cin.toNat) := by
  have hword : BitVec.ofNat 32 (d.toNat + x.toNat + cin.toNat) =
      BitVec.ofInt 32 (d.toInt + x.toInt + (cin.toNat : Int)) := by
    simp [BitVec.ofInt_add, BitVec.ofNat_add]
  refine ⟨hword, ?_, ?_, ?_, ?_, rfl, rfl, rfl⟩
  · exact decide_eq_true_iff
  · rw [← hword]
    exact decide_eq_true_iff
  · exact decide_eq_true_iff
  · exact decide_eq_true_iff

/-- Adding the complement and a carry subtracts: the difference, less one where the carry is clear, and the carry out
is "not borrow" (R212, R214). -/
theorem addCore_not_isSum (d x : Word) (cin : Bool) :
    IsSum (addCore d (~~~x) cin) (d.toInt - x.toInt - 1 + cin.toNat) (x.toNat + 1 ≤ d.toNat + cin.toNat) := by
  have h := addCore_isSum d (~~~x) cin
  have hexact : d.toInt + (~~~x).toInt + cin.toNat = d.toInt - x.toInt - 1 + cin.toNat := by
    rw [toInt_not_word]
    omega
  have hcarry : 2 ^ 32 ≤ d.toNat + (~~~x).toNat + cin.toNat ↔ x.toNat + 1 ≤ d.toNat + cin.toNat := by
    rw [BitVec.toNat_not]
    omega
  rwa [hexact, propext hcarry] at h

/-! ### A sum stored, or the Overflow trap (R200) -/

section
variable (s : State) (rb : Reg) (r : Word × Flags)

theorem State.commitAdd_of_kept (h : ¬(r.2.v = true ∧ s.cpu.flagVE = true)) :
    s.commitAdd rb r = s.commitPartial rb r :=
  if_neg (by rwa [Bool.and_eq_true])

theorem State.commitAdd_of_trap (h : r.2.v = true ∧ s.cpu.flagVE = true) :
    s.commitAdd rb r =
      (if Config.ovfCommit then (s.wr rb r.1).setFlags r.2 else s).raise numOverflow :=
  if_pos (by rwa [Bool.and_eq_true])

end

/-- The Overflow trap, the result and its flags written or not (R200, OVF_COMMIT). -/
theorem overflowTrap_of_unchanged {s u : State} {rb : Reg} (h : Unchanged s u (flagParts ++ [.reg rb])) :
    (u.raise numOverflow).AtEntry s.turn (if s.cpu.flagT then 0x17 else 0x1E) ∧
      (s.cpu.flagT = true →
        (u.raise numOverflow).cpu.qHead = s.cpu.pc ∧ (u.raise numOverflow).cpu.qTail = s.cpu.npc ∧
        (u.raise numOverflow).cpu.statusSave.extractLsb' 0 16 = s.cpu.sscr.extractLsb' 0 16) ∧
      (u.raise numOverflow).cpu.reg rb = u.cpu.reg rb ∧
      Unchanged s (u.raise numOverflow) (entryParts ++ [.reg rb]) := by
  obtain ⟨hentry, hsaved, hframe⟩ :=
    raise_of_unchanged h (by simp [flagParts]) (n := numOverflow) (by decide) (by decide)
  have hturn : (u.raise numOverflow).turn = s.turn := by
    rw [State.raise_turn]
    exact h.turn (by simp [flagParts])
  have hmodes : u.cpu.sscr.extractLsb' 0 16 = s.cpu.sscr.extractLsb' 0 16 := by
    apply BitVec.eq_of_getLsbD_eq
    intro j hj
    have hbit : u.cpu.sscr.getLsbD j = s.cpu.sscr.getLsbD j :=
      h (.status ⟨j, by omega⟩) (by simp [flagParts, Fin.ext_iff]; omega)
    simp only [BitVec.getLsbD_extractLsb', Nat.zero_add, hbit]
  refine ⟨hentry, fun hT => ?_, ?_, hframe.mono fun p hp => ?_⟩
  · obtain ⟨hstatus, hhead, htail⟩ := hsaved hT
    rw [← hturn] at hstatus hhead htail
    exact ⟨hhead, htail, (congrArg _ hstatus).trans hmodes⟩
  · exact unchanged_raise u (by decide) (by decide) (.reg rb) (by simp [entryParts])
  · simp only [List.mem_append] at hp ⊢
    have hflags : p ∈ flagParts → p ∈ entryParts := fun hflag => flagParts_subset_entryParts hflag
    tauto

theorem fullWordResult_of_commitAdd {i : Instr} {s : State} {rb : Reg} {r : Word × Flags} {exact : Int} {carry : Prop}
    (h : exec i s = .next (s.commitAdd rb r)) (hsum : IsSum r exact carry) : FullWordResult i s rb exact carry := by
  obtain ⟨hword, hn, hz, hv, hc0, hc1, hc2, hc3⟩ := hsum
  rw [← hword] at hz
  unfold FullWordResult
  rw [← hv, ← hword]
  refine ⟨fun hkept => ?_, fun htrap => ?_⟩
  · refine ⟨_, h, ?_⟩
    rw [State.commitAdd_of_kept s rb r hkept]
    refine ⟨?_, ?_, advances_commitPartial s rb r, unchanged_commitPartial s rb r⟩
    · rw [State.commitPartial_cpu]
      exact reg_wr_setFlags s rb r
    · simp only [PU.FullWordFlags, State.commitPartial_cpu, PU.sequential_flagN, PU.sequential_flagZ,
        PU.sequential_flagV, PU.sequential_carry, State.setFlags_flagN, State.setFlags_flagZ, State.setFlags_flagV,
        State.setFlags_carry0, State.setFlags_carry1, State.setFlags_carry2, State.setFlags_carry3]
      exact ⟨hn, hz, trivial, hc0, hc1, hc2, hc3⟩
  · refine ⟨_, h, ?_⟩
    rw [State.commitAdd_of_trap s rb r htrap]
    cases Config.ovfCommit with
    | true =>
      obtain ⟨hentry, hsaved, hreg, hframe⟩ := overflowTrap_of_unchanged (unchanged_wr_setFlags s rb r)
      exact ⟨hentry, hsaved, .inr (hreg.trans (reg_wr_setFlags s rb r)), hframe⟩
    | false =>
      obtain ⟨hentry, hsaved, hreg, hframe⟩ :=
        overflowTrap_of_unchanged ((Unchanged.refl s).mono (List.nil_subset (flagParts ++ [.reg rb])))
      exact ⟨hentry, hsaved, .inl hreg, hframe⟩

/-- An immediate of Add or Subtract Immediate is a word of its own value, signed or not (R203, R213). -/
theorem immediate_value {imm : Nat} (h : imm < 2 ^ 31) :
    (BitVec.ofNat 32 imm).toNat = imm ∧ (BitVec.ofNat 32 imm).toInt = imm := by
  have hnat : (BitVec.ofNat 32 imm).toNat = imm := by
    rw [BitVec.toNat_ofNat]
    omega
  refine ⟨hnat, ?_⟩
  rw [BitVec.toInt_eq_toNat_cond, hnat]
  omega

/-- Settles O16: each form is the add core, of an operand or its complement and a carry in. -/
theorem fullWordArithmetic : Obligations.FullWordArithmetic := by
  refine ⟨fun rb ra s => ?_, fun rb imm s hwf => ?_, fun rb ra s => ?_, fun rb ra s => ?_, fun rb imm s hwf => ?_,
    fun rb ra s => ?_, fun rb ra s => ?_⟩
  · simpa using fullWordResult_of_commitAdd (i := .add rb ra) rfl (addCore_isSum (s.rd rb) (s.rd ra) false)
  · obtain ⟨hnat, hint⟩ := immediate_value (imm := imm) (by simp [Instr.wf, immOk] at hwf; omega)
    have h := fullWordResult_of_commitAdd (i := .addI rb imm) rfl (addCore_isSum (s.rd rb) (.ofNat 32 imm) false)
    rw [hnat, hint] at h
    simpa using h
  · exact fullWordResult_of_commitAdd rfl (addCore_isSum (s.rd rb) (s.rd ra) (s.cpu.carry 0))
  · simpa using fullWordResult_of_commitAdd (i := .sub rb ra) rfl (addCore_not_isSum (s.rd rb) (s.rd ra) true)
  · obtain ⟨hnat, hint⟩ := immediate_value (imm := imm) (by simp [Instr.wf, imm4Ok] at hwf; omega)
    have h := fullWordResult_of_commitAdd (i := .subI rb imm) rfl (addCore_not_isSum (s.rd rb) (.ofNat 32 imm) true)
    rw [hnat, hint] at h
    simpa using h
  · exact fullWordResult_of_commitAdd rfl (addCore_not_isSum (s.rd rb) (s.rd ra) (s.cpu.carry 0))
  · have hzero : s.rd ra = 0 ↔ (s.rd ra).toNat = 0 := BitVec.toNat_eq
    rw [hzero]
    simpa using fullWordResult_of_commitAdd (i := .neg rb ra) rfl (addCore_not_isSum 0 (s.rd ra) true)

/-! ### CLZ (R206) -/

theorem leadingZeros_zero : leadingZeros 0 = 32 := by decide

/-- The count ends at the highest set bit of a word that has one. -/
theorem leadingZeros_of_ne_zero {w : Word} (h : w ≠ 0) :
    leadingZeros w < 32 ∧ w.getLsbD (31 - leadingZeros w) = true := by
  unfold leadingZeros
  cases hfind : (List.range 32).find? (fun k => w.getLsbD (31 - k)) with
  | none =>
    refine absurd (BitVec.eq_of_getLsbD_eq fun j hj => ?_) h
    have hbit := List.find?_eq_none.mp hfind (31 - j) (List.mem_range.mpr (by omega))
    rw [Nat.sub_sub_self (by omega)] at hbit
    simpa using hbit
  | some n =>
    obtain ⟨hbit, hn, -⟩ := List.find?_range_eq_some.mp hfind
    exact ⟨List.mem_range.mp hn, hbit⟩

/-- Above the count every bit is clear. -/
theorem getLsbD_of_lt_leadingZeros {w : Word} {k : Nat} (h : k < leadingZeros w) : w.getLsbD (31 - k) = false := by
  unfold leadingZeros at h
  cases hfind : (List.range 32).find? (fun k => w.getLsbD (31 - k)) with
  | none =>
    rw [hfind] at h
    simpa using List.find?_eq_none.mp hfind k (List.mem_range.mpr h)
  | some n =>
    rw [hfind] at h
    obtain ⟨-, -, hclear⟩ := List.find?_range_eq_some.mp hfind
    simpa using hclear k h

/-- Settles O20: the count, and a register written with the source's N and Z. (`leadingZeros` is the model's own
function.) -/
theorem leadingZerosCounted : Obligations.LeadingZeros := fun rb ra s =>
  ⟨leadingZeros (s.rd ra), fun h => by rw [h, leadingZeros_zero], leadingZeros_of_ne_zero,
    fun _ => getLsbD_of_lt_leadingZeros, writes_of_wr_setNZ rfl⟩

end Sys2Proof.Machine
end

section
/-! PROOFS. Partial-word sums and differences (41_arithmetic.md R201, R205, R211, R215, R216), lane by lane. -/

namespace Sys2Proof.Machine

/-! ### Lanes of a word (10_state.md R47) -/

theorem laneOf_byte (w : Word) (k : Nat) : laneOf false w k = (byteLane w k).toNat := by
  rw [byteLane, BitVec.extractLsb'_toNat, Nat.shiftRight_eq_div_pow, show 24 - 8 * k = 32 - 8 * k - 8 by omega]
  rfl

theorem laneOf_half (w : Word) (k : Nat) : laneOf true w k = (halfLane w k).toNat := by
  rw [halfLane, BitVec.extractLsb'_toNat, Nat.shiftRight_eq_div_pow, show 16 - 8 * k = 32 - 8 * k - 16 by omega]
  rfl

/-- A lane of the complement is the complement of the lane. -/
theorem laneOf_not {h : Bool} (w : Word) {k : Nat} (hk : k ∈ lanes h) :
    laneOf h (~~~w) k + 1 + laneOf h w k = 2 ^ laneWidth h := by
  have hcomplement : ∀ lo len, lo + len ≤ 32 →
      (BitVec.extractLsb' lo len (~~~w)).toNat + 1 + (BitVec.extractLsb' lo len w).toNat = 2 ^ len := by
    intro lo len hlen
    have hnot : BitVec.extractLsb' lo len (~~~w) = ~~~BitVec.extractLsb' lo len w := by
      apply BitVec.eq_of_getLsbD_eq
      intro j hj
      simp [hj, show lo + j < 32 by omega, -BitVec.getLsbD_eq_getElem]
    have hlt := (BitVec.extractLsb' lo len w).isLt
    rw [hnot, BitVec.toNat_not]
    omega
  cases h with
  | false =>
    rw [laneOf_byte, laneOf_byte]
    exact hcomplement _ _ (by omega)
  | true =>
    rw [laneOf_half, laneOf_half]
    exact hcomplement _ _ (by omega)

section
open BitVec (extractLsb'_append_eq_of_le extractLsb'_append_eq_of_add_le extractLsb'_eq_self)

theorem byteLane_append (a b c d : Byte) :
    let w : Word := (a ++ b ++ c ++ d : BitVec (8 + 8 + 8 + 8))
    byteLane w 0 = a ∧ byteLane w 1 = b ∧ byteLane w 2 = c ∧ byteLane w 3 = d := by
  have upper : ∀ {start}, 8 ≤ start → BitVec.extractLsb' start 8 (a ++ b ++ c ++ d : BitVec (8 + 8 + 8 + 8)) =
      BitVec.extractLsb' (start - 8) 8 (a ++ b ++ c : BitVec (8 + 8 + 8)) := extractLsb'_append_eq_of_le
  refine ⟨(upper (by decide)).trans ?_, (upper (by decide)).trans ?_, (upper (by decide)).trans ?_, ?_⟩
  · exact (extractLsb'_append_eq_of_le (by decide)).trans
      ((extractLsb'_append_eq_of_le (by decide)).trans extractLsb'_eq_self)
  · exact (extractLsb'_append_eq_of_le (by decide)).trans
      ((extractLsb'_append_eq_of_add_le (by decide)).trans extractLsb'_eq_self)
  · exact (extractLsb'_append_eq_of_add_le (by decide)).trans extractLsb'_eq_self
  · exact (extractLsb'_append_eq_of_add_le (by decide)).trans extractLsb'_eq_self

theorem halfLane_append (a b : Half) :
    let w : Word := (a ++ b : BitVec (16 + 16))
    halfLane w 0 = a ∧ halfLane w 2 = b :=
  ⟨(extractLsb'_append_eq_of_le (by decide)).trans extractLsb'_eq_self,
    (extractLsb'_append_eq_of_add_le (by decide)).trans extractLsb'_eq_self⟩

end

/-! ### The lane core (R216) -/

section
variable (w : Nat) (d x : BitVec w) (cin : Bool)

theorem laneAdd_toNat : (laneAdd w d x cin).1.toNat = (d.toNat + x.toNat + cin.toNat) % 2 ^ w :=
  BitVec.toNat_ofNat ..

theorem laneAdd_carry : (laneAdd w d x cin).2 = true ↔ 2 ^ w ≤ d.toNat + x.toNat + cin.toNat := decide_eq_true_iff

theorem laneAdd_zero : ((laneAdd w d x cin).1 == 0) = true ↔ (d.toNat + x.toNat + cin.toNat) % 2 ^ w = 0 := by
  rw [beq_iff_eq, ← laneAdd_toNat]
  exact BitVec.toNat_eq

theorem laneAdd_msb : (laneAdd w d x cin).1.msb = true ↔ 2 ^ (w - 1) ≤ (d.toNat + x.toNat + cin.toNat) % 2 ^ w := by
  rw [BitVec.msb_eq_decide, decide_eq_true_iff, laneAdd_toNat]

end

section
variable {h : Bool} {d x : Word} {cin : Nat → Bool} {u : Nat → Nat}
  (hu : ∀ k ∈ lanes h, u k = laneOf h d k + laneOf h x k + (cin k).toNat)
include hu

theorem partialCore_lane {k : Nat} (hk : k ∈ lanes h) :
    laneOf h (partialCore h d x cin).1 k = u k % 2 ^ laneWidth h := by
  cases h with
  | false =>
    obtain ⟨h0, h1, h2, h3⟩ := byteLane_append (laneAdd 8 (byteLane d 0) (byteLane x 0) (cin 0)).1
      (laneAdd 8 (byteLane d 1) (byteLane x 1) (cin 1)).1 (laneAdd 8 (byteLane d 2) (byteLane x 2) (cin 2)).1
      (laneAdd 8 (byteLane d 3) (byteLane x 3) (cin 3)).1
    have hlane : byteLane (partialCore false d x cin).1 k = (laneAdd 8 (byteLane d k) (byteLane x k) (cin k)).1 := by
      obtain rfl | rfl | rfl | rfl : k = 0 ∨ k = 1 ∨ k = 2 ∨ k = 3 := by simpa [lanes] using hk
      · exact h0
      · exact h1
      · exact h2
      · exact h3
    rw [laneOf_byte, hlane, laneAdd_toNat, hu k hk, laneOf_byte, laneOf_byte]
    rfl
  | true =>
    obtain ⟨h0, h2⟩ := halfLane_append (laneAdd 16 (halfLane d 0) (halfLane x 0) (cin 0)).1
      (laneAdd 16 (halfLane d 2) (halfLane x 2) (cin 2)).1
    have hlane : halfLane (partialCore true d x cin).1 k = (laneAdd 16 (halfLane d k) (halfLane x k) (cin k)).1 := by
      obtain rfl | rfl : k = 0 ∨ k = 2 := by simpa [lanes] using hk
      · exact h0
      · exact h2
    rw [laneOf_half, hlane, laneAdd_toNat, hu k hk, laneOf_half, laneOf_half]
    rfl

theorem partialCore_laneFlags (s : State) : (s.setFlags (partialCore h d x cin).2).cpu.LaneFlags h u := by
  cases h with
  | false =>
    simp only [lanes, List.forall_mem_cons, List.not_mem_nil, false_imp_iff, implies_true, and_true, laneOf_byte,
      Bool.false_eq_true, if_false] at hu
    obtain ⟨h0, h1, h2, h3⟩ := hu
    refine ⟨fun k hk => ?_, ?_, ?_, State.setFlags_flagV ..⟩
    · interval_cases k <;>
        simp only [State.setFlags_carry0, State.setFlags_carry1, State.setFlags_carry2, State.setFlags_carry3] <;>
        simp [partialCore, partialBytes, laneAdd_carry, lanes, laneWidth, h0, h1, h2, h3]
    · rw [State.setFlags_flagN]
      simp [partialCore, partialBytes, laneAdd_msb, lanes, laneWidth, h0, h1, h2, h3, or_assoc]
    · rw [State.setFlags_flagZ]
      simp only [partialCore, partialBytes, Bool.false_eq_true, if_false, Bool.or_eq_true, laneAdd_zero, lanes,
        laneWidth, List.exists_mem_cons_iff, h0, h1, h2, h3, or_assoc, List.not_mem_nil, false_and, exists_false,
        or_false]
  | true =>
    simp only [lanes, List.forall_mem_cons, List.not_mem_nil, false_imp_iff, implies_true, and_true, laneOf_half,
      if_true] at hu
    obtain ⟨h0, h2⟩ := hu
    refine ⟨fun k hk => ?_, ?_, ?_, State.setFlags_flagV ..⟩
    · interval_cases k <;>
        simp only [State.setFlags_carry0, State.setFlags_carry1, State.setFlags_carry2, State.setFlags_carry3] <;>
        simp [partialCore, partialHalves, laneAdd_carry, lanes, laneWidth, h0, h2]
    · rw [State.setFlags_flagN]
      simp [partialCore, partialHalves, laneAdd_msb, lanes, laneWidth, h0, h2]
    · rw [State.setFlags_flagZ]
      simp only [partialCore, partialHalves, if_true, Bool.or_eq_true, laneAdd_zero, lanes, laneWidth,
        List.exists_mem_cons_iff, h0, h2, List.not_mem_nil, false_and, exists_false, or_false]

end

theorem laneResult_of_commitPartial {i : Instr} {s : State} {rb : Reg} {d x : Word} {cin : Nat → Bool}
    {u : Nat → Nat} (h : exec i s = .next (s.commitPartial rb (partialCore s.cpu.flagH d x cin)))
    (hu : ∀ k ∈ lanes s.cpu.flagH, u k = laneOf s.cpu.flagH d k + laneOf s.cpu.flagH x k + (cin k).toNat) :
    LaneResult i s rb u := by
  refine ⟨_, h, fun k hk => ?_, ?_, advances_commitPartial .., unchanged_commitPartial _ _ _⟩
  · rw [State.commitPartial_cpu, PU.sequential_reg, reg_wr_setFlags]
    exact partialCore_lane hu hk
  · rw [State.commitPartial_cpu]
    exact partialCore_laneFlags hu _

/-- Settles O17: each form is the lane core, of an operand or its complement and carries in. -/
theorem partialSumsAndDifferences : Obligations.PartialSumsAndDifferences := by
  refine ⟨fun rb ra s => ?_, fun rb ra s => ?_, fun rb ra s => ?_, fun rb ra s => ?_⟩
  · exact laneResult_of_commitPartial (cin := fun _ => false) rfl fun k _ => rfl
  · exact laneResult_of_commitPartial rfl fun k _ => rfl
  · refine laneResult_of_commitPartial (cin := fun _ => true) rfl fun k hk => ?_
    have hnot := laneOf_not (s.rd ra) hk
    simp only [Bool.toNat_true]
    omega
  · refine laneResult_of_commitPartial (cin := s.cpu.carry) rfl fun k hk => ?_
    have hnot := laneOf_not (s.rd ra) hk
    omega

end Sys2Proof.Machine
end

section
/-! SUPPORT. Result-pending intervals (70_reset_and_hazards.md R398, L30): what issuing and spoiling do to them, how
they run out, and what the registers then hold. -/

namespace Sys2Proof.Machine

/-! ### Issuing and spoiling -/

/-- An interval goes on among these, no shorter than before, and will end with an open value. -/
def InFlight.SpoiledIn (e : InFlight) (es : List InFlight) : Prop :=
  ∃ f ∈ es, f.dest = e.dest ∧ f.spoiled = true ∧ e.left ≤ f.left

section
variable (u : PU) (ds : List Dest) (n : Nat)

theorem PU.issue_busy (d : Dest) : (u.issue ds n).busy d = (ds.contains d || u.busy d) := by
  have hold : ∀ e : InFlight, e.dest = d → e ∈ u.inflight → u.busy d = true := fun e hd he =>
    List.any_eq_true.mpr ⟨e, he, beq_iff_eq.mpr hd⟩
  rw [Bool.eq_iff_iff]
  simp only [PU.busy, PU.issue, List.any_append, List.any_map, Bool.or_eq_true, List.any_eq_true, Function.comp_apply,
    beq_iff_eq, List.mem_filter, Bool.not_eq_true', List.contains_iff_mem]
  constructor
  · rintro (h | ⟨x, ⟨hx, -⟩, rfl⟩)
    · exact .inr h
    · exact .inl hx
  · rintro (h | h)
    · cases hb : u.busy d with
      | true => exact .inl (by simpa [PU.busy] using hb)
      | false => exact .inr ⟨d, ⟨h, hb⟩, rfl⟩
    · exact .inl h

/-- A Mul or Div spoils every result still pending, and shortens no interval. -/
theorem PU.issue_spoils {e : InFlight} (h : e ∈ u.inflight) :
    e.SpoiledIn (u.issue ds n).inflight := by
  refine ⟨_, List.mem_append_left _ (List.mem_map_of_mem h), rfl, rfl, ?_⟩
  dsimp only
  split
  · exact Nat.le_max_left ..
  · exact Nat.le_refl _

/-- A write of a pending register spoils its result. -/
theorem PU.spoil_spoils {e : InFlight} (h : e ∈ u.inflight) :
    e.SpoiledIn (u.spoil e.dest).inflight :=
  ⟨{ e with spoiled := true }, List.mem_map.mpr ⟨e, h, if_pos rfl⟩, rfl, rfl, Nat.le_refl _⟩

end

/-- Only the intervals change, and where nothing is issued none of them begins or ends. -/
theorem unchanged_issue (s : State) {ds : List Dest} (n : Nat) {ps : List Part}
    (h : Part.intervals ∉ ps → ds = []) : Unchanged s (s.modCpu (fun u => u.issue ds n)) ps :=
  unchanged_setCpu (u := s.cpu.issue ds n) (e := (s.modCpu (fun u => u.issue ds n)).event)
    (fun _ _ => rfl) (fun _ _ => rfl) (fun _ => ⟨rfl, rfl⟩) (fun _ => rfl) (fun _ => rfl) (fun _ => rfl) (fun _ => rfl)
    (fun _ => rfl) (fun _ => ⟨rfl, rfl⟩) (fun _ => rfl) (fun _ => rfl) (fun _ => rfl) (fun _ => rfl) (fun _ => rfl)
    (fun _ => rfl) (fun hi d => by rw [PU.issue_busy, h hi]; rfl) (fun _ => rfl)

theorem unchanged_putDest (s : State) (d : Dest) (v : Word) :
    Unchanged s (s.modCpu (fun u => u.putDest d v)) [d.part] :=
  unchanged_setCpu (u := s.cpu.putDest d v) (e := (s.modCpu (fun u => u.putDest d v)).event)
    (fun r hr => PU.getDest_putDest_other s.cpu v (e := .gpr r) fun h => hr (by simp [← h, Dest.part]))
    (fun _ _ => by simp) (fun _ => by simp) (fun _ => by simp)
    (fun hr => PU.getDest_putDest_other s.cpu v (e := .remainder) fun h => hr (by simp [← h, Dest.part]))
    (fun hr => PU.getDest_putDest_other s.cpu v (e := .product) fun h => hr (by simp [← h, Dest.part]))
    (fun _ => by simp) (fun _ => by simp) (fun _ => by simp) (fun _ => by simp) (fun _ => by simp) (fun _ => by simp)
    (fun _ => by simp) (fun _ => by simp) (fun _ => by simp) (fun _ _ => by simp) (fun _ => by simp)

/-! ### The end of an interval -/

section
variable (p : PuId) (tick : Nat)

/-- The interval ends with the next instruction and leaves an open value. -/
def InFlight.opens (e : InFlight) (d : Dest) : Prop := e.dest = d ∧ e.left ≤ 1 ∧ e.spoiled = true

/-- The open value that a register has at the end of its interval. -/
def settledWord (d : Dest) : Word := Config.freeWord tick (tagOfPu p (tagSettle d))

theorem PU.settle_getDest_of_opens (u : PU) {e : InFlight} {d : Dest} (h : e.opens d) :
    (PU.settle p tick u e).getDest d = settledWord p tick d := by
  obtain ⟨rfl, hend⟩ := h
  rw [PU.settle, if_pos hend, PU.getDest_putDest]
  rfl

theorem PU.settle_getDest_of_not_opens (u : PU) {e : InFlight} {d : Dest} (h : ¬e.opens d) :
    (PU.settle p tick u e).getDest d = u.getDest d := by
  unfold PU.settle
  split
  · exact PU.getDest_putDest_other u _ fun hd => h ⟨hd.symm, ‹_›⟩
  · rfl

/-- Once open, a register stays at that value while the other intervals of the step end. -/
theorem foldl_settle_getDest_of_settled {u : PU} {d : Dest} (es : List InFlight)
    (h : u.getDest d = settledWord p tick d) :
    (es.foldl (PU.settle p tick) u).getDest d = settledWord p tick d := by
  induction es generalizing u with
  | nil => exact h
  | cons e es ih =>
    refine ih ?_
    by_cases he : e.opens d
    · exact PU.settle_getDest_of_opens p tick u he
    · rw [PU.settle_getDest_of_not_opens p tick u he, h]

theorem foldl_settle_getDest_of_opens (u : PU) {d : Dest} {es : List InFlight} (h : ∃ e ∈ es, e.opens d) :
    (es.foldl (PU.settle p tick) u).getDest d = settledWord p tick d := by
  induction es generalizing u with
  | nil => simp at h
  | cons e es ih =>
    obtain ⟨f, hf, hopens⟩ := h
    obtain rfl | hf := List.mem_cons.mp hf
    · exact foldl_settle_getDest_of_settled p tick es (PU.settle_getDest_of_opens p tick u hopens)
    · exact ih _ ⟨f, hf, hopens⟩

theorem foldl_settle_getDest_of_not_opens (u : PU) {d : Dest} {es : List InFlight} (h : ∀ e ∈ es, ¬e.opens d) :
    (es.foldl (PU.settle p tick) u).getDest d = u.getDest d := by
  induction es generalizing u with
  | nil => rfl
  | cons e es ih =>
    obtain ⟨he, hes⟩ := List.forall_mem_cons.mp h
    exact (ih _ hes).trans (PU.settle_getDest_of_not_opens p tick u he)

theorem PU.retire_getDest_of_opens (u : PU) {d : Dest} (h : ∃ e ∈ u.inflight, e.opens d) :
    (u.retire p tick).getDest d = settledWord p tick d := by
  cases d <;> exact foldl_settle_getDest_of_opens p tick u h

theorem PU.retire_getDest_of_not_opens (u : PU) {d : Dest} (h : ∀ e ∈ u.inflight, ¬e.opens d) :
    (u.retire p tick).getDest d = u.getDest d := by
  cases d <;> exact foldl_settle_getDest_of_not_opens p tick u h

/-! ### Intervals of a well formed PU -/

variable {u : PU} (hwf : u.InFlightWf)
include hwf

theorem PU.InFlightWf.eq_of_dest {e f : InFlight} (he : e ∈ u.inflight) (hf : f ∈ u.inflight)
    (h : f.dest = e.dest) : f = e :=
  List.inj_on_of_nodup_map hwf.2 hf he h

/-- The last instruction of an interval ends it. -/
theorem PU.InFlightWf.retire_busy {e : InFlight} (he : e ∈ u.inflight) (hlast : e.left = 1) :
    (u.retire p tick).busy e.dest = false := by
  rw [PU.busy, List.any_eq_false]
  intro f hf hdest
  obtain ⟨g, hg, rfl⟩ := List.mem_map.mp hf
  obtain ⟨hmem, hmore⟩ := List.mem_filter.mp hg
  obtain rfl := hwf.eq_of_dest he hmem (beq_iff_eq.mp hdest)
  simp [hlast] at hmore

theorem PU.InFlightWf.retire_kept {e : InFlight} (he : e ∈ u.inflight) (h : e.spoiled = false) :
    (u.retire p tick).getDest e.dest = u.getDest e.dest := by
  refine PU.retire_getDest_of_not_opens p tick u ?_
  rintro f hf ⟨hdest, -, hspoiled⟩
  rw [hwf.eq_of_dest he hf hdest, h] at hspoiled
  cases hspoiled

end

/-! ### A window with no write and no other Mul or Div -/

/-- Intervals of `n` more instructions, none of them spoiled. -/
def pendingWindow (ds : List Dest) (n : Nat) : List InFlight :=
  if n = 0 then [] else ds.map (fun d => ⟨d, n, false⟩)

theorem PU.issue_of_idle {u : PU} (h : u.inflight = []) (ds : List Dest) {n : Nat} (hn : n ≠ 0) :
    (u.issue ds n).inflight = pendingWindow ds n := by
  simp [PU.issue, PU.busy, pendingWindow, h, hn]

section
variable {u : PU} {ds : List Dest} {n : Nat} (h : u.inflight = pendingWindow ds n)
include h

theorem PU.busy_of_window (d : Dest) : u.busy d = (ds.contains d && decide (0 < n)) := by
  rw [PU.busy, h, pendingWindow]
  by_cases hn : n = 0
  · simp [hn]
  · rw [if_neg hn, List.any_map]
    rw [decide_eq_true (Nat.pos_of_ne_zero hn), Bool.and_true, List.contains_eq_any_beq]
    exact congrArg ds.any (funext fun _ => Bool.beq_comm)

theorem PU.retire_window (p : PuId) (tick : Nat) : (u.retire p tick).inflight = pendingWindow ds (n - 1) := by
  show (u.inflight.filter _).map _ = _
  rw [h, pendingWindow, pendingWindow]
  obtain hn | hn := Nat.lt_or_ge 1 n
  · rw [if_neg (show n ≠ 0 by omega), if_neg (show n - 1 ≠ 0 by omega),
      List.filter_eq_self.mpr (by simpa using fun _ _ => hn), List.map_map]
    rfl
  · rw [if_pos (show n - 1 = 0 by omega)]
    split
    · rfl
    · rw [List.filter_eq_nil_iff.mpr (by simpa using fun _ _ => hn)]
      rfl

theorem PU.retire_getDest_of_window (p : PuId) (tick : Nat) (d : Dest) :
    (u.retire p tick).getDest d = u.getDest d := by
  refine PU.retire_getDest_of_not_opens p tick u ?_
  rintro e he ⟨-, -, hspoiled⟩
  rw [h, pendingWindow] at he
  split at he
  · simp at he
  · obtain ⟨d, -, rfl⟩ := List.mem_map.mp he
    cases hspoiled

end

/-- Results that nothing disturbs stay pending until their window ends, and read as they were left. -/
theorem PU.retires_window {u : PU} {ds : List Dest} {n : Nat} (h : u.inflight = pendingWindow ds n) (p : PuId)
    (k tick : Nat) :
    (u.retires p k tick).inflight = pendingWindow ds (n - k) ∧ ∀ d, (u.retires p k tick).getDest d = u.getDest d := by
  induction k generalizing u n tick with
  | zero => exact ⟨h, fun _ => rfl⟩
  | succ k ih =>
    obtain ⟨hinflight, hkept⟩ := ih (PU.retire_window h p tick) (tick + 1)
    refine ⟨?_, fun d => (hkept d).trans (PU.retire_getDest_of_window h p tick d)⟩
    rw [show n - (k + 1) = n - 1 - k by omega]
    exact hinflight

end Sys2Proof.Machine
end

section
/-! PROOFS. Mul, MulP and Div (41_arithmetic.md R207 to R209, 70_reset_and_hazards.md R398, L17, L30): a Mul and a
completing Div are one operation, `issueResults`, on different values. -/

namespace Sys2Proof.Machine

/-! ### Two results left, and pending -/

/-- A Mul or Div that completes: `low` in RegB, `high` in the second result register, both pending for `n`
instructions, and MDfull clear. -/
def State.issueResults (s : State) (rb : Reg) (d : Dest) (low high : Word) (n : Nat) : State :=
  (s.modCpu (fun u => (((u.issue [.gpr rb, d] n).putDest d high).putDest (.gpr rb) low).withBit bitF false)).advance

theorem exec_mul (rb ra : Reg) (s : State) :
    exec (.mul rb ra) s = .next (s.issueResults rb .product
      (productLow (s.rd rb) (s.rd ra) (if s.cpu.flagF then s.cpu.readDest s.tick .product else 0))
      (productHigh (s.rd rb) (s.rd ra) (if s.cpu.flagF then s.cpu.readDest s.tick .product else 0)) mulLatency) := rfl

section
variable (s : State) (rb : Reg) (d : Dest) (low high : Word) (n : Nat)

theorem State.issueResults_cpu : (s.issueResults rb d low high n).cpu =
    ((((s.cpu.issue [.gpr rb, d] n).putDest d high).putDest (.gpr rb) low).withBit bitF false).sequential := by
  simp only [issueResults, advance_cpu, modCpu_cpu]

theorem State.issueResults_low : (s.issueResults rb d low high n).cpu.reg rb = low := by
  rw [issueResults_cpu]
  exact PU.getDest_putDest _ (.gpr rb) low

theorem State.issueResults_high (hd : d ≠ .gpr rb) : (s.issueResults rb d low high n).cpu.getDest d = high := by
  have hput : ((((s.cpu.issue [.gpr rb, d] n).putDest d high).putDest (.gpr rb) low)).getDest d = high :=
    (PU.getDest_putDest_other _ low hd).trans (PU.getDest_putDest ..)
  rw [issueResults_cpu]
  cases d <;> exact hput

theorem State.issueResults_flagF : (s.issueResults rb d low high n).cpu.flagF = false := by
  rw [issueResults_cpu, PU.sequential_flagF]
  exact setBit_same _ _ _ (by decide)

theorem State.issueResults_inflight :
    (s.issueResults rb d low high n).cpu.inflight = (s.cpu.issue [.gpr rb, d] n).inflight := by
  rw [issueResults_cpu]
  simp

theorem State.issueResults_busy (e : Dest) :
    (s.issueResults rb d low high n).cpu.busy e = (e == .gpr rb || e == d || s.cpu.busy e) := by
  rw [PU.busy_of_inflight (s.issueResults_inflight rb d low high n), PU.issue_busy]
  simp [Bool.beq_eq_decide_eq]

theorem unchanged_issueResults :
    Unchanged s (s.issueResults rb d low high n) (stepParts ++ [.reg rb, d.part, .status 2, .intervals]) := by
  have h := (unchanged_issue s (ds := [.gpr rb, d]) n (ps := [.intervals]) (by simp)).trans (State.modCpu_turn ..)
    ((unchanged_putDest _ d high).trans (State.modCpu_turn ..)
      ((unchanged_putDest _ (.gpr rb) low).trans (State.modCpu_turn ..) (unchanged_withBit _ 2 false)))
  simp only [State.modCpu_modCpu] at h
  refine (h.trans (State.modCpu_turn ..) (unchanged_advance _)).mono ?_
  simp [Dest.part]

theorem advances_issueResults : Advances s (s.issueResults rb d low high n) := by
  refine ⟨?_, ?_, ?_, ?_, ?_, rfl⟩ <;> simp [State.issueResults_cpu]

theorem State.issueResults_spoils {e : InFlight} (h : e ∈ s.cpu.inflight) :
    e.SpoiledIn (s.issueResults rb d low high n).cpu.inflight := by
  rw [issueResults_inflight]
  exact PU.issue_spoils s.cpu _ n h

/-- Nothing else pending before it, and nothing written after it: its results are pending for `n` instructions and
read as they were left. -/
theorem State.issueResults_window (hidle : s.cpu.inflight = []) (hn : n ≠ 0) (p : PuId) (k tick : Nat) :
    let u := (s.issueResults rb d low high n).cpu
    (u.retires p k tick).busy (.gpr rb) = decide (k < n) ∧ (u.retires p k tick).busy d = decide (k < n) ∧
      ∀ e, (u.retires p k tick).getDest e = u.getDest e := by
  intro u
  have hwindow : u.inflight = pendingWindow [.gpr rb, d] n :=
    (s.issueResults_inflight rb d low high n).trans (PU.issue_of_idle hidle _ hn)
  obtain ⟨hinflight, hkept⟩ := PU.retires_window hwindow p k tick
  refine ⟨?_, ?_, hkept⟩
  · rw [PU.busy_of_window hinflight]
    simp
  · rw [PU.busy_of_window hinflight]
    simp

end

/-! ### The product (R208) -/

theorem productLow_toNat (b a c : Word) : (productLow b a c).toNat = (b.toNat * a.toNat + c.toNat) % 2 ^ 32 := by
  simp [productLow]

theorem productHigh_of_unsigned (b a c : Word) (h : Config.mulSigned = false) :
    (productHigh b a c).toNat = (b.toNat * a.toNat + c.toNat) / 2 ^ 32 := by
  have hmul : b.toNat * a.toNat ≤ (2 ^ 32 - 1) * (2 ^ 32 - 1) :=
    Nat.mul_le_mul (by omega) (by omega)
  rw [productHigh, h, if_neg Bool.false_ne_true, productUnsigned, BitVec.extractLsb'_toNat, BitVec.toNat_ofNat,
    Nat.shiftRight_eq_div_pow]
  omega

/-- The upper half of a signed 64-bit word is its quotient by 2^32, rounded down. -/
theorem toInt_upper (x : BitVec 64) : (x.extractLsb' 32 32).toInt = x.toInt / 2 ^ 32 := by
  rw [BitVec.toInt_eq_toNat_cond, BitVec.toInt_eq_toNat_cond, BitVec.extractLsb'_toNat, Nat.shiftRight_eq_div_pow]
  split <;> split <;> omega

theorem productHigh_of_signed (b a c : Word) (h : Config.mulSigned = true) :
    (productHigh b a c).toInt = (b.toInt * a.toInt + c.toInt) / 2 ^ 32 := by
  have hmul : |b.toInt * a.toInt| ≤ 2 ^ 31 * 2 ^ 31 := by
    rw [abs_mul]
    have hbound : ∀ x : Word, |x.toInt| ≤ 2 ^ 31 := fun x => by
      have hlo := x.le_toInt
      have hhi := x.toInt_lt
      exact abs_le.mpr ⟨by omega, by omega⟩
    exact mul_le_mul (hbound b) (hbound a) (abs_nonneg _) (by norm_num)
  have hlo := c.le_toInt
  have hhi := c.toInt_lt
  obtain ⟨hmin, hmax⟩ := abs_le.mp hmul
  rw [productHigh, if_pos h, toInt_upper, productSigned, BitVec.toInt_ofInt_eq_self (by decide) (by omega) (by omega)]

/-! ### Mul and MulP -/

theorem writes_mulP (rb ra : Reg) (s : State) : Writes (.mulP rb ra) s rb
    (Config.mulPFn s.cpu.flagH (s.rd rb) (s.rd ra) s.cpu.flagF (s.cpu.readDest s.tick .product))
    [.status 2] (fun t => t.cpu.flagF = false) := by
  refine writes_of_advance rfl ((unchanged_wr s rb _).trans (State.wr_turn ..) (unchanged_withBit _ 2 false))
    (by simp) ?_ ?_
  · rw [State.modCpu_cpu, State.wr_cpu]
    exact PU.writeDest_get s.cpu rb _
  · rw [State.advance_cpu, State.modCpu_cpu, PU.sequential_flagF]
    exact setBit_same _ _ _ (by decide)

/-- A Mov into a pending register spoils its result. -/
theorem exec_mov_spoils {rb ra : Reg} {s t : State} {e : InFlight} (he : e ∈ s.cpu.inflight) (hdest : e.dest = .gpr rb)
    (h : exec (.mov rb ra) s = .next t) :
    e.SpoiledIn t.cpu.inflight := by
  obtain rfl : (s.wr rb (s.rd ra)).advance = t := Host.Outcome.next.inj h
  have hinflight : (s.wr rb (s.rd ra)).advance.cpu.inflight = (s.cpu.spoil e.dest).inflight := by
    rw [State.advance_cpu, PU.sequential_inflight, State.wr_cpu, hdest]
    exact PU.writeDest_inflight ..
  rw [hinflight]
  exact PU.spoil_spoils s.cpu he

/-- Settles O18: `issueResults` on the product's halves, and the intervals' own rules. -/
theorem multiplyResults : Obligations.MultiplyResults := by
  refine ⟨fun rb ra s => ?_, writes_mulP, fun rb ra s t tick n hidle h => ?_, fun rb ra s t e he h => ?_,
    fun u p tick e hwf he hlast => ⟨hwf.retire_busy p tick he hlast, fun hspoiled => ?_, hwf.retire_kept p tick he⟩⟩
  · refine ⟨_, exec_mul rb ra s, ?_, fun hu => ?_, fun hs => ?_, State.issueResults_flagF .., ?_,
      advances_issueResults .., unchanged_issueResults _ _ _ _ _ _⟩
    · rw [State.issueResults_low, productLow_toNat]
    · exact (congrArg BitVec.toNat (State.issueResults_high s rb .product _ _ _ (by simp))).trans
        (productHigh_of_unsigned _ _ _ hu)
    · exact (congrArg BitVec.toInt (State.issueResults_high s rb .product _ _ _ (by simp))).trans
        (productHigh_of_signed _ _ _ hs)
    · exact State.issueResults_busy s rb .product _ _ _
  · obtain rfl := Host.Outcome.next.inj ((exec_mul rb ra s).symm.trans h)
    obtain ⟨hlow, hhigh, hkept⟩ := s.issueResults_window rb .product _ _ mulLatency hidle (by decide) s.turn n tick
    exact ⟨hlow, hhigh, hkept (.gpr rb), hkept .product⟩
  · obtain ⟨hdest, hmov⟩ | hmul := h
    · exact exec_mov_spoils he hdest hmov
    · obtain rfl := Host.Outcome.next.inj ((exec_mul rb ra s).symm.trans hmul)
      exact s.issueResults_spoils rb .product _ _ _ he
  · exact ⟨_, _, PU.retire_getDest_of_opens p tick u ⟨e, he, rfl, by omega, hspoiled⟩⟩

/-! ### The ways through Div (R207) -/

/-- The state from which Div takes the Overflow trap: MDfull clear, and what was pending spoiled (L30). -/
def State.divideIssued (s : State) : State := s.modCpu (fun u => (u.withBit bitF false).issue [] 0)

/-- The quotient does not fit: with MDfull set, the divisor is not above the dividend's high word (R207). -/
def State.QuotientLarge (s : State) (ra : Reg) : Prop :=
  s.cpu.flagF = true ∧ (s.rd ra).toNat ≤ (s.cpu.readDest s.tick .remainder).toNat

/-- The divisor is zero, with MDfull clear (R207). -/
def State.DivisorZero (s : State) (ra : Reg) : Prop := s.cpu.flagF = false ∧ s.rd ra = 0

/-- What of these traps (R207, DIV0_TRAPS). -/
def State.DivideTraps (s : State) (ra : Reg) : Prop :=
  s.cpu.flagVE = true ∧ (s.QuotientLarge ra ∨ Config.div0Traps = true)

theorem State.dividendHigh_of_full {s : State} (h : s.cpu.flagF = true) :
    s.dividendHigh = s.cpu.readDest s.tick .remainder := if_pos h

theorem State.dividendHigh_of_empty {s : State} (h : s.cpu.flagF = false) : s.dividendHigh = 0 :=
  if_neg (by simp [h])

theorem State.fits_or_open (s : State) (ra : Reg) :
    s.dividendHigh.toNat < (s.rd ra).toNat ∨ s.QuotientLarge ra ∨ s.DivisorZero ra := by
  cases hF : s.cpu.flagF with
  | true =>
    rw [dividendHigh_of_full hF]
    exact (Nat.lt_or_ge _ _).imp_right fun h => .inl ⟨hF, h⟩
  | false =>
    rw [dividendHigh_of_empty hF]
    by_cases hzero : s.rd ra = 0
    · exact .inr (.inr ⟨hF, hzero⟩)
    · exact .inl (Nat.pos_of_ne_zero fun h => hzero (BitVec.eq_of_toNat_eq h))

section
variable (s : State) (rb : Reg)

theorem State.divide_cleared (q r : Word) :
    (s.modCpu (fun u => u.withBit bitF false)).divide rb q r = s.issueResults rb .remainder q r s.divLatency := by
  simp only [divide, modCpu_modCpu, issueResults, divLatency, modCpu_params]
  rfl

theorem State.divideFree_cleared :
    (s.modCpu (fun u => u.withBit bitF false)).divideFree rb = s.issueResults rb .remainder
      (Config.freeWord s.tick tagQuotient) (Config.freeWord s.tick tagRemainder) s.divLatency := by
  rw [divideFree, modCpu_tick, divide_cleared]

theorem State.divideTrap_cleared :
    (s.modCpu (fun u => u.withBit bitF false)).divideTrap = s.divideIssued.raise numOverflow := by
  rw [divideTrap, modCpu_modCpu]
  rfl

end

section
variable {s : State} {ra : Reg} (rb : Reg)

theorem exec_div_of_fits (h : s.dividendHigh.toNat < (s.rd ra).toNat) :
    exec (.div rb ra) s = .next (s.issueResults rb .remainder (quotient s.dividendHigh (s.rd rb) (s.rd ra))
      (remainder s.dividendHigh (s.rd rb) (s.rd ra)) s.divLatency) := by
  have hzero : s.rd ra ≠ 0 := fun h0 => by simp [h0] at h
  show execDiv rb ra s = _
  unfold execDiv
  dsimp only
  rw [if_neg (by omega), if_neg hzero, s.divide_cleared]

/-- Where the quotient does not fit or the divisor is zero, Div traps or leaves open values. -/
theorem exec_div_of_open (h : s.QuotientLarge ra ∨ s.DivisorZero ra) :
    (s.DivideTraps ra ∧ exec (.div rb ra) s = .next (s.divideIssued.raise numOverflow)) ∨
      (¬s.DivideTraps ra ∧ exec (.div rb ra) s = .next (s.issueResults rb .remainder
        (Config.freeWord s.tick tagQuotient) (Config.freeWord s.tick tagRemainder) s.divLatency)) := by
  show (_ ∧ execDiv rb ra s = _) ∨ _ ∧ execDiv rb ra s = _
  unfold execDiv
  dsimp only
  rw [s.divideTrap_cleared, s.divideFree_cleared]
  obtain ⟨hF, hle⟩ | ⟨hF, hzero⟩ := h
  · have hlarge : s.QuotientLarge ra := ⟨hF, hle⟩
    rw [if_pos ⟨hF, by rwa [State.dividendHigh_of_full hF]⟩]
    cases hVE : s.cpu.flagVE with
    | true => exact .inl ⟨⟨hVE, .inl hlarge⟩, rfl⟩
    | false => exact .inr ⟨fun ht => by simp [State.DivideTraps, hVE] at ht, rfl⟩
  · rw [if_neg (by simp [hF]), if_pos hzero]
    have htraps : s.DivideTraps ra ↔ (Config.div0Traps && s.cpu.flagVE) = true := by
      simp [State.DivideTraps, State.QuotientLarge, hF, and_comm]
    cases htrap : Config.div0Traps && s.cpu.flagVE with
    | true => exact .inl ⟨htraps.mpr htrap, rfl⟩
    | false => exact .inr ⟨fun ht => by simp [htraps.mp ht] at htrap, rfl⟩

/-- Every Div completes or takes the Overflow trap. -/
theorem exec_div_cases (s : State) (ra : Reg) :
    (∃ q r, exec (.div rb ra) s = .next (s.issueResults rb .remainder q r s.divLatency)) ∨
      (s.cpu.flagVE = true ∧ exec (.div rb ra) s = .next (s.divideIssued.raise numOverflow)) := by
  obtain hfits | hopen := s.fits_or_open ra
  · exact .inl ⟨_, _, exec_div_of_fits rb hfits⟩
  · obtain ⟨⟨hVE, -⟩, h⟩ | ⟨-, h⟩ := exec_div_of_open rb hopen
    · exact .inr ⟨hVE, h⟩
    · exact .inl ⟨_, _, h⟩

end

/-! ### What Div leaves -/

theorem quotient_toNat {hi lo d : Word} (h : hi.toNat < d.toNat) :
    (quotient hi lo d).toNat = (hi.toNat * 2 ^ 32 + lo.toNat) / d.toNat := by
  have hfits : (hi.toNat * 2 ^ 32 + lo.toNat) / d.toNat < 2 ^ 32 := by
    rw [Nat.div_lt_iff_lt_mul (by omega)]
    omega
  rw [quotient, BitVec.toNat_ofNat, Nat.mod_eq_of_lt hfits]

theorem remainder_toNat {hi lo d : Word} (h : hi.toNat < d.toNat) :
    (remainder hi lo d).toNat = (hi.toNat * 2 ^ 32 + lo.toNat) % d.toNat := by
  have hless := Nat.mod_lt (hi.toNat * 2 ^ 32 + lo.toNat) (show 0 < d.toNat by omega)
  rw [remainder, BitVec.toNat_ofNat, Nat.mod_eq_of_lt (by omega)]

section
variable (s : State)

theorem State.divideIssued_sscr : s.divideIssued.cpu.sscr = s.cpu.sscr &&& 0xFFFFFFFB := by
  rw [divideIssued, modCpu_cpu]
  rfl

theorem unchanged_divideIssued : Unchanged s s.divideIssued [.status 2] := by
  have h := (unchanged_withBit s 2 false).trans (State.modCpu_turn ..)
    (unchanged_issue _ (ds := []) 0 (ps := []) fun _ => rfl)
  rwa [State.modCpu_modCpu] at h

theorem State.divideIssued_spoils {e : InFlight} (h : e ∈ s.cpu.inflight) :
    e.SpoiledIn (s.divideIssued.raise numOverflow).cpu.inflight := by
  rw [raise_inflight, divideIssued, modCpu_cpu]
  exact PU.issue_spoils (s.cpu.withBit bitF false) [] 0 h

end

/-- Settles O19: the ways through Div, `issueResults` on what it leaves, and the Overflow trap of `divideIssued`. -/
theorem divideResults : Obligations.DivideResults := by
  refine ⟨fun rb ra s => ?_, fun rb ra s => ?_, fun rb ra s t tick n hidle hVE h => ?_, fun rb ra s t e he h => ?_⟩
  · intro hi n hfits
    refine ⟨_, exec_div_of_fits rb hfits, ?_, ?_, State.issueResults_flagF .., ?_, advances_issueResults ..,
      unchanged_issueResults _ _ _ _ _ _⟩
    · rw [State.issueResults_low]
      exact quotient_toNat hfits
    · exact (congrArg BitVec.toNat (State.issueResults_high s rb .remainder _ _ _ (by simp))).trans
        (remainder_toNat hfits)
    · exact State.issueResults_busy s rb .remainder _ _ _
  · intro large zero traps hopen
    refine ⟨fun ht => ?_, fun ht => ?_⟩
    · obtain ⟨-, h⟩ | ⟨hno, -⟩ := exec_div_of_open rb hopen
      · obtain ⟨hentry, hsaved, hframe⟩ := raise_of_unchanged (unchanged_divideIssued s) (by simp)
          (n := numOverflow) (by decide) (by decide)
        refine ⟨_, h, hentry, by rwa [s.divideIssued_sscr] at hsaved, hframe.mono ?_⟩
        simp [status_mem_entryParts]
      · exact absurd ht hno
    · obtain ⟨hyes, -⟩ | ⟨-, h⟩ := exec_div_of_open rb hopen
      · exact absurd hyes ht
      · exact ⟨_, h, State.issueResults_flagF .., State.issueResults_busy s rb .remainder _ _ _,
          advances_issueResults .., unchanged_issueResults _ _ _ _ _ _⟩
  · obtain ⟨q, r, hdiv⟩ | ⟨hon, -⟩ := exec_div_cases rb s ra
    · obtain rfl := Host.Outcome.next.inj (hdiv.symm.trans h)
      have hlatency : s.divLatency ≠ 0 := by
        unfold State.divLatency
        split <;> decide
      obtain ⟨hlow, hhigh, hkept⟩ := s.issueResults_window rb .remainder q r s.divLatency hidle hlatency s.turn n tick
      exact ⟨hlow, hhigh, hkept (.gpr rb), hkept .remainder⟩
    · rw [hVE] at hon
      cases hon
  · obtain ⟨q, r, hdiv⟩ | ⟨-, hdiv⟩ := exec_div_cases rb s ra
    · obtain rfl := Host.Outcome.next.inj (hdiv.symm.trans h)
      exact s.issueResults_spoils rb .remainder q r _ he
    · obtain rfl := Host.Outcome.next.inj (hdiv.symm.trans h)
      exact s.divideIssued_spoils he

end Sys2Proof.Machine
end

section
/-! PROOFS. Comparisons of words and of lanes (42_compare_branch.md R233 to R235), the conditions they leave
(10_state.md R48), and the mask LdCP makes of the carries (40_load_store_move.md R164). -/

namespace Sys2Proof.Machine

/-! ### Condition codes written, and nothing else -/

theorem completes_of_advance {i : Instr} {s u : State} {also : List Part} {post : State → Prop}
    (h : exec i s = .next u.advance) (hframe : Unchanged s u also) (hown : ∀ p ∈ [Part.counters, .model], p ∉ also)
    (hpost : post u.advance) : Completes i s also post := by
  refine ⟨_, h, hpost, advances_of_unchanged hframe (hown _ (by simp)), ?_⟩
  refine (hframe.trans (hframe.turn (hown _ (by simp))) (unchanged_advance u)).mono fun p hp => ?_
  simp only [List.mem_append] at hp ⊢
  exact hp.symm

theorem completes_of_setFlags {i : Instr} {s : State} {f : Flags} {post : State → Prop}
    (h : exec i s = .next (s.setFlags f).advance) (hpost : post (s.setFlags f).advance) :
    Completes i s flagParts post :=
  completes_of_advance h (unchanged_setFlags s f) (by simp [flagParts]) hpost

/-! ### Words compared (R233, R234) -/

section
variable (s : State) (b a : Word)

/-- The state after a comparison of two words. -/
def State.compared : State := (s.setFlags (compareFlags b a)).advance

theorem State.compared_flagN : (s.compared b a).cpu.flagN = decide (b.toInt < a.toInt) := by
  rw [compared, advance_cpu, PU.sequential_flagN, setFlags_flagN, compareFlags]

theorem State.compared_flagZ : (s.compared b a).cpu.flagZ = (b == a) := by
  rw [compared, advance_cpu, PU.sequential_flagZ, setFlags_flagZ, compareFlags]

theorem State.compared_flagV : (s.compared b a).cpu.flagV = false := by
  rw [compared, advance_cpu, PU.sequential_flagV, setFlags_flagV, compareFlags]

/-- The full-word carry is "not borrow", and the other carries are clear. -/
theorem State.compared_carries : (s.compared b a).cpu.carry 0 = decide (a.toNat ≤ b.toNat) ∧
    (s.compared b a).cpu.carry 1 = false ∧ (s.compared b a).cpu.carry 2 = false ∧
    (s.compared b a).cpu.carry 3 = false := by
  simp only [compared, advance_cpu, PU.sequential_carry, setFlags_carry0, setFlags_carry1, setFlags_carry2,
    setFlags_carry3, compareFlags, and_self]

end

/-- Settles O21: the condition table (`conditionUses`) at the flags of the comparison. -/
theorem compareConditions : Obligations.CompareConditions := by
  intro rb ra imm s i b a hi
  have hexec : exec i s = .next (s.compared b a) := by
    obtain ⟨rfl, rfl, rfl⟩ | ⟨rfl, -, rfl, rfl⟩ := hi
    · rfl
    · show execCmpI rb a.toNat s = _
      rw [execCmpI, BitVec.ofNat_toNat, BitVec.setWidth_eq, State.compared]
  refine completes_of_setFlags hexec ?_
  rw [← State.compared]
  obtain ⟨heq, hne, hlt, hge, hle, hgt, hlo, hhs, hls, hhi, hov, hnv⟩ := conditionUses.1 (s.compared b a)
  obtain ⟨hc0, hc1, hc2, hc3⟩ := s.compared_carries b a
  have hsigned : b = a ↔ b.toInt = a.toInt := BitVec.toInt_inj.symm
  have hunsigned : b = a ↔ b.toNat = a.toNat := BitVec.toNat_eq
  rw [heq, hne, hlt, hge, hle, hgt, hlo, hhs, hls, hhi, hov, hnv, hc0, hc1, hc2, hc3, s.compared_flagN,
    s.compared_flagZ, s.compared_flagV]
  simp only [Bool.or_false, Bool.or_eq_true, Bool.and_eq_true, Bool.not_eq_true', Bool.or_eq_false_iff,
    decide_eq_true_iff, decide_eq_false_iff_not, beq_iff_eq, beq_eq_false_iff_ne, ne_eq, Bool.not_false, not_lt,
    not_le, true_and, and_true]
  -- GT, LE, HI and LS are left: they read Z beside an order.
  refine ⟨?_, ?_, ?_, ?_⟩
  · rw [hsigned]
    omega
  · rw [hsigned]
    omega
  · rw [hunsigned]
    omega
  · rw [hunsigned]
    omega

/-! ### Lanes compared (R235) -/

/-- A lane's difference, kept above zero by its borrow, is the sum with the complement and a carry in (R216). -/
theorem laneOf_difference {h : Bool} (b a : Word) {k : Nat} (hk : k ∈ lanes h) :
    laneOf h b k + 2 ^ laneWidth h - laneOf h a k = laneOf h b k + laneOf h (~~~a) k + true.toNat := by
  have hnot := laneOf_not a hk
  simp only [Bool.toNat_true]
  omega

theorem completes_cmpP (rb ra : Reg) (s : State) : Completes (.cmpP rb ra) s flagParts (fun t =>
    t.cpu.LaneFlags s.cpu.flagH (fun k =>
      laneOf s.cpu.flagH (s.rd rb) k + 2 ^ laneWidth s.cpu.flagH - laneOf s.cpu.flagH (s.rd ra) k)) := by
  refine completes_of_setFlags rfl ?_
  rw [State.advance_cpu]
  exact partialCore_laneFlags (cin := fun _ => true) (fun k hk => laneOf_difference _ _ hk) s

/-- The lane's carry of a difference is "not borrow". -/
theorem PU.LaneFlags.carry_iff_le {u : PU} {h : Bool} {b a : Word}
    (hflags : u.LaneFlags h fun k => laneOf h b k + 2 ^ laneWidth h - laneOf h a k) {k : Nat} (hk : k ∈ lanes h) :
    u.carry k = true ↔ laneOf h a k ≤ laneOf h b k := by
  obtain ⟨hcarry, -⟩ := hflags
  have hlt : k < 4 := by
    cases h <;> simp [lanes] at hk <;> omega
  have hlane : laneOf h a k < 2 ^ laneWidth h := Nat.mod_lt _ (by positivity)
  rw [hcarry k hlt]
  simp only [hk, true_and]
  omega

/-! ### The mask of the carries (40_load_store_move.md R164) -/

theorem carryLane_toNat (w : Nat) (c : Bool) : (carryLane w c).toNat = if c then 0 else 2 ^ w - 1 := by
  cases c with
  | false => exact BitVec.toNat_allOnes
  | true => exact BitVec.toNat_zero

theorem PU.carryMask_lane (u : PU) {k : Nat} (hk : k ∈ lanes u.flagH) :
    laneOf u.flagH u.carryMask k = if u.carry k then 0 else 2 ^ laneWidth u.flagH - 1 := by
  cases h : u.flagH with
  | false =>
    obtain ⟨h0, h1, h2, h3⟩ := byteLane_append (carryLane 8 (u.carry 0)) (carryLane 8 (u.carry 1))
      (carryLane 8 (u.carry 2)) (carryLane 8 (u.carry 3))
    have hlane : byteLane u.carryMask k = carryLane 8 (u.carry k) := by
      rw [carryMask, if_neg (by simp [h])]
      obtain rfl | rfl | rfl | rfl : k = 0 ∨ k = 1 ∨ k = 2 ∨ k = 3 := by simpa [h, lanes] using hk
      · exact h0
      · exact h1
      · exact h2
      · exact h3
    rw [laneOf_byte, hlane, carryLane_toNat]
    rfl
  | true =>
    obtain ⟨h0, h2⟩ := halfLane_append (carryLane 16 (u.carry 0)) (carryLane 16 (u.carry 2))
    have hlane : halfLane u.carryMask k = carryLane 16 (u.carry k) := by
      rw [carryMask, if_pos h]
      obtain rfl | rfl : k = 0 ∨ k = 2 := by simpa [h, lanes] using hk
      · exact h0
      · exact h2
    rw [laneOf_half, hlane, carryLane_toNat]
    rfl

theorem writes_ldCP (ra : Reg) (s : State) : Writes (.ldCP ra) s ra s.cpu.carryMask [] (fun _ => True) :=
  writes_of_wr_advance rfl

/-- Settles O22: a lane of the mask is set exactly where the lane difference borrows. -/
theorem comparePartialThenMask : Obligations.ComparePartialThenMask := by
  refine ⟨completes_cmpP, fun ra s => ?_, fun rb ra rd s t u hcmp hmask k hk => ?_⟩
  · obtain ⟨t, h, hreg, -, hat, hframe⟩ := writes_ldCP ra s
    exact ⟨t, _, h, hreg, fun k => s.cpu.carryMask_lane, hat, hframe.mono (by simp)⟩
  · obtain ⟨t', hcmp', hflags, -, hframe⟩ := completes_cmpP rb ra s
    obtain rfl := Host.Outcome.next.inj (hcmp'.symm.trans hcmp)
    obtain ⟨u', hmask', hreg, -⟩ := writes_ldCP rd t'
    obtain rfl := Host.Outcome.next.inj (hmask'.symm.trans hmask)
    have hmode : t'.cpu.flagH = s.cpu.flagH := hframe (.status 1) (by simp [stepParts, flagParts])
    have hlane := t'.cpu.carryMask_lane (k := k) (by rwa [hmode])
    rw [hreg, ← hmode, hlane, hmode]
    by_cases hle : laneOf s.cpu.flagH (s.rd ra) k ≤ laneOf s.cpu.flagH (s.rd rb) k
    · rw [if_pos ((hflags.carry_iff_le hk).mpr hle), if_neg (not_lt.mpr hle)]
    · rw [if_neg (mt (hflags.carry_iff_le hk).mp hle), if_pos (not_le.mp hle)]

end Sys2Proof.Machine
end

section
/-! PROOFS. Taken branches and jumps with B clear (42_compare_branch.md R230, R232, R236 to R238), and moves and
reads of the program counter (R231, 40_load_store_move.md R162, R171; L25). -/

namespace Sys2Proof.Machine

/-! ### A taken transfer (10_state.md R31) -/

theorem unchanged_transfer (s : State) (target : HAddr) (e : StepEvent) :
    Unchanged s { s.modCpu (fun u => u.transfer target) with event := e } stepParts :=
  unchanged_setCpu (u := s.cpu.transfer target) (fun _ _ => rfl) (fun _ _ => rfl)
    (fun h => absurd (by simp [stepParts]) h) (fun _ => rfl) (fun _ => rfl) (fun _ => rfl) (fun _ => rfl)
    (fun _ => rfl) (fun _ => ⟨rfl, rfl⟩) (fun _ => rfl) (fun h => absurd (by simp [stepParts]) h)
    (fun h => absurd (by simp [stepParts]) h) (fun _ => rfl) (fun _ => rfl) (fun _ => rfl) (fun _ _ => rfl)
    (fun _ => rfl)

section
variable {s : State} (target : HAddr) (h : s.cpu.flagB = false)
include h

theorem State.takeBranch_of_clear :
    s.takeBranch target = { s.modCpu (fun u => u.transfer target) with event := .finished } :=
  if_neg (by simp [h])

theorem branches_takeBranch : Branches s (s.takeBranch target) target := by
  have hcpu : (s.takeBranch target).cpu = s.cpu.transfer target := by
    rw [State.takeBranch_of_clear target h]
    exact (State.cpu_with_event ..).trans (State.modCpu_cpu ..)
  refine ⟨?_, ?_, ?_, ?_, ?_, congrArg State.event (State.takeBranch_of_clear target h)⟩ <;> simp [hcpu]

theorem unchanged_takeBranch : Unchanged s (s.takeBranch target) stepParts := by
  rw [State.takeBranch_of_clear target h]
  exact unchanged_transfer s target .finished

end

theorem exec_bcc_of_taken {s : State} {cc : Cc} (d : Int) (h : s.cond cc = true) :
    exec (.bcc cc d) s = .next (s.takeBranch (pcAdd s.cpu.pc d)) :=
  if_pos h

theorem addressOf_eq_setWidth (w : Word) : addressOf w = w.setWidth 30 :=
  (BitVec.setWidth_eq_extractLsb' (by decide)).symm

theorem exec_jmpA (ra : Reg) (s : State) : exec (.jmpA ra) s = .next (s.takeBranch ((s.rd ra).setWidth 30)) := by
  rw [← addressOf_eq_setWidth]
  rfl

theorem exec_jmpL (ra : Reg) (s : State) : exec (.jmpL ra) s =
    .next ((s.wr linkReg (zeroExtend30 (s.cpu.npc + 1))).takeBranch ((s.rd ra).setWidth 30)) := by
  rw [← addressOf_eq_setWidth]
  rfl

/-- The halfword after, as a word: modulo the program counter's range (R231, R238). -/
theorem zeroExtend30_succ_toNat (h : HAddr) : (zeroExtend30 (h + 1)).toNat = (h.toNat + 1) % 2 ^ 30 := by
  rw [zeroExtend30_eq, BitVec.toNat_ofNat, BitVec.toNat_add]
  exact Nat.mod_eq_of_lt (by omega)

/-- Settles O24: `takeBranch` with B clear, on JmpL after the write of R4. -/
theorem takenTransfers : Obligations.TakenTransfers := by
  intro s hB
  refine ⟨fun cc d hc => ?_, fun d => ?_, fun ra => ?_, fun ra => ?_⟩
  · exact ⟨_, exec_bcc_of_taken d hc, branches_takeBranch _ hB, unchanged_takeBranch _ hB⟩
  · exact ⟨_, rfl, branches_takeBranch _ hB, unchanged_takeBranch _ hB⟩
  · exact ⟨_, exec_jmpA ra s, branches_takeBranch _ hB, unchanged_takeBranch _ hB⟩
  · have hlink := unchanged_wr s linkReg (zeroExtend30 (s.cpu.npc + 1))
    have hB' : (s.wr linkReg (zeroExtend30 (s.cpu.npc + 1))).cpu.flagB = false :=
      Eq.trans (hlink (.status 10) (by simp)) hB
    have hjump := unchanged_takeBranch ((s.rd ra).setWidth 30) hB'
    refine ⟨_, exec_jmpL ra s, ?_, ?_, ?_⟩
    · simpa [Branches] using branches_takeBranch ((s.rd ra).setWidth 30) hB'
    · have hreg := hjump (.reg linkReg) (by simp [stepParts])
      rw [← zeroExtend30_succ_toNat]
      exact congrArg BitVec.toNat (Eq.trans hreg (by simp))
    · exact (hlink.trans (State.wr_turn ..) hjump).mono (by simp [linkReg])

/-- Settles O26: each form writes one register. -/
theorem movesAndProgramCounterReads : Obligations.MovesAndProgramCounterReads := by
  refine ⟨fun ra s => ⟨_, ?_, writes_of_wr_advance rfl⟩, fun rb imm s hwf => ⟨_, ?_, writes_of_wr_advance rfl⟩,
    fun rb ra s => writes_of_wr_advance rfl⟩
  · rw [BitVec.toNat_add, zeroExtend30_succ_toNat]
  · obtain ⟨hvalue, -⟩ := immediate_value (imm := imm) (by simp [Instr.wf, immOk] at hwf; omega)
    exact hvalue

end Sys2Proof.Machine
end

section
/-! PROOFS. Logical instructions, shifts and bit fields (43_shift_logical_field.md R260 to R276), and TstF
(42_compare_branch.md R241): what each leaves in its register bit by bit, and its N, Z and V. -/

namespace Sys2Proof.Machine

/-! ### N and Z written, V and the carries kept (10_state.md R49) -/

section
variable (s : State) (n z : Bool)

theorem State.setNZkeepV_flagN : (s.setNZkeepV n z).cpu.flagN = n := by
  simp [PU.flagN, -BitVec.getLsbD_eq_getElem]

theorem State.setNZkeepV_flagZ : (s.setNZkeepV n z).cpu.flagZ = z := by
  simp [PU.flagZ, setBit_getLsbD, -BitVec.getLsbD_eq_getElem]

theorem unchanged_setNZkeepV : Unchanged s (s.setNZkeepV n z) nzParts :=
  unchanged_mapStatus (g := fun w => setBit (setBit w 16 z) 17 n) fun b hb => by
    simp only [nzParts, List.mem_cons, Part.status.injEq, List.not_mem_nil, or_false, not_or] at hb
    obtain ⟨h16, h17⟩ : b.val ≠ 16 ∧ b.val ≠ 17 := by omega
    simp only [setBit_getLsbD, Nat.reduceLT, if_neg, h16, h17, not_false_eq_true]

end

/-- A register written, N and Z written, and the step. -/
theorem writes_of_wr_setNZkeepV {i : Instr} {s : State} {r : Reg} {v : Word} {n z : Bool}
    (h : exec i s = .next ((s.wr r v).setNZkeepV n z).advance) :
    Writes i s r v nzParts (fun t => t.cpu.flagN = n ∧ t.cpu.flagZ = z) := by
  have hreg : ((s.wr r v).setNZkeepV n z).cpu.reg r = (s.wr r v).cpu.reg r :=
    unchanged_setNZkeepV _ _ _ (.reg r) (by simp [nzParts])
  refine writes_of_advance h ((unchanged_wr s r v).trans (State.wr_turn ..) (unchanged_setNZkeepV _ _ _))
    (by simp [nzParts]) (hreg.trans (by simp)) ?_
  rw [State.advance_cpu]
  exact ⟨State.setNZkeepV_flagN _ _ _, State.setNZkeepV_flagZ _ _ _⟩

theorem Writes.imp {i : Instr} {s : State} {r : Reg} {v : Word} {also : List Part} {post post' : State → Prop}
    (h : Writes i s r v also post) (himp : ∀ t, post t → post' t) : Writes i s r v also post' := by
  obtain ⟨t, hexec, hreg, hpost, hat, hframe⟩ := h
  exact ⟨t, hexec, hreg, himp t hpost, hat, hframe⟩

theorem Completes.imp {i : Instr} {s : State} {also : List Part} {post post' : State → Prop}
    (h : Completes i s also post) (himp : ∀ t, post t → post' t) : Completes i s also post' := by
  obtain ⟨t, hexec, hpost, hat, hframe⟩ := h
  exact ⟨t, hexec, himp t hpost, hat, hframe⟩

/-- A register written with its own N and Z, V kept. -/
theorem writes_signOf_of_setNZkeepV {i : Instr} {s : State} {r : Reg} {v : Word}
    (h : exec i s = .next ((s.wr r v).setNZkeepV v.msb (v == 0)).advance) :
    Writes i s r v nzParts (fun t => t.cpu.SignOf v) := by
  refine (writes_of_wr_setNZkeepV h).imp fun t ⟨hN, hZ⟩ => ⟨?_, ?_⟩
  · rw [hN, BitVec.msb_eq_toInt, decide_eq_true_iff]
  · rw [hZ, beq_iff_eq]

/-! ### Logic (R261, R262, R271, R272, R276) -/

/-- `commitNZ` is a write with the result's own N and Z, and V cleared. -/
theorem writesNZ_of_commitNZ {i : Instr} {s : State} {r : Reg} {v : Word} (h : exec i s = .next (s.commitNZ r v)) :
    WritesNZ i s r v :=
  writes_of_wr_setNZ h

theorem not_getLsbD_of_lt (w : Word) {j : Nat} (hj : j < 32) : (~~~w).getLsbD j = !w.getLsbD j := by
  rw [BitVec.getLsbD_not, decide_eq_true hj, Bool.true_and]

/-- Settles O27: each operation is the word's own, and Or alone keeps V. -/
theorem logicalResults : Obligations.LogicalResults := by
  intro rb ra s
  refine ⟨⟨_, fun j _ => ?_, writesNZ_of_commitNZ rfl⟩, ⟨_, fun j hj => ?_, writesNZ_of_commitNZ rfl⟩,
    ⟨_, fun j _ => ?_, writesNZ_of_commitNZ rfl⟩, ⟨_, fun j hj => ?_, writesNZ_of_commitNZ rfl⟩,
    ⟨_, fun j _ => ?_, writes_signOf_of_setNZkeepV rfl⟩⟩
  · exact BitVec.getLsbD_and
  · rw [BitVec.getLsbD_and, not_getLsbD_of_lt _ hj]
  · exact BitVec.getLsbD_xor
  · exact not_getLsbD_of_lt _ hj
  · exact BitVec.getLsbD_or

/-! ### Shifts (R274, R275) -/

theorem exec_shL_of_ne_zero (r : Reg) {amt : Fin 32} (s : State) (h : amt ≠ 0) :
    exec (.shL r amt) s = .next ((s.wr r (s.rd r <<< amt.val)).setNZkeepV (s.rd r <<< amt.val).msb
      (s.rd r <<< amt.val == 0)).advance :=
  if_neg h

theorem exec_shR_of_ne_zero (r : Reg) {amt : Fin 32} (s : State) (h : amt ≠ 0) :
    exec (.shR r amt) s =
      .next ((s.wr r (s.rd r >>> amt.val)).setNZkeepV false (s.rd r >>> amt.val == 0)).advance :=
  if_neg h

theorem shiftLeft_getLsbD_of_lt (w : Word) (k : Nat) {j : Nat} (hj : j < 32) :
    (w <<< k).getLsbD j = (decide (k ≤ j) && w.getLsbD (j - k)) := by
  rw [BitVec.getLsbD_shiftLeft, decide_eq_true hj, Bool.true_and, ← decide_not]
  simp only [not_lt]

/-- Settles O28: the shifted word, with its N and Z for ShL and with N clear for ShR. -/
theorem shiftResults : Obligations.ShiftResults := by
  intro r amt s hamt
  refine ⟨⟨_, fun j hj => shiftLeft_getLsbD_of_lt _ _ hj, writes_signOf_of_setNZkeepV (exec_shL_of_ne_zero r s hamt)⟩,
    ⟨_, fun j _ => ?_, (writes_of_wr_setNZkeepV (exec_shR_of_ne_zero r s hamt)).imp fun t ⟨hN, hZ⟩ => ⟨hN, ?_⟩⟩⟩
  · rw [BitVec.getLsbD_ushiftRight, Nat.add_comm]
  · rw [hZ, beq_iff_eq]

/-! ### Field definitions (R260, R269, R270) -/

theorem leftEnd_val (pos : Fin 32) (len : Nat) : (leftEnd pos len).val = min 31 (pos.val + len - 1) :=
  Nat.mod_eq_of_lt (by omega)

/-- A definition of Msk is legal, its length being at least 1 (R130). -/
theorem le_leftEnd (pos : Fin 32) {len : Nat} (h : lenOk len = true) : pos ≤ leftEnd pos len := by
  simp only [lenOk, Bool.and_eq_true, decide_eq_true_eq] at h
  rw [Fin.le_def, leftEnd_val]
  omega

/-- An instruction that does nothing but define a field of a length in range. -/
theorem completes_of_field {i : Instr} {s : State} {pos : Fin 32} {len : Nat} (hlen : lenOk len = true)
    (h : exec i s = .next (s.modCpu (fun u => { u with mask := .field pos (leftEnd pos len) })).advance) :
    Completes i s [.mask] (fun t => ∃ l : Fin 32, l.val = min 31 (pos.val + len - 1) ∧
      t.cpu.mask.field? = some (pos, l)) := by
  refine completes_of_advance h (unchanged_savedContext (fun h => absurd (List.mem_singleton.mpr rfl) h)
    (fun _ => rfl) (fun _ => rfl) (fun _ => ⟨rfl, rfl⟩)) (by simp) ⟨_, leftEnd_val pos len, ?_⟩
  rw [State.advance_cpu, PU.sequential_mask, State.modCpu_cpu]
  exact if_pos (le_leftEnd pos hlen)

/-- Settles O29: both forms define a legal field, at the position given or read. -/
theorem maskDefinitions : Obligations.MaskDefinitions :=
  ⟨fun _ _ _ hwf => completes_of_field hwf rfl, fun _ _ _ hwf =>
    (completes_of_field hwf rfl).imp fun _ ⟨l, hl, hfield⟩ => ⟨_, l, rfl, hl, hfield⟩⟩

/-- Only a legal definition defines a field: its right end is not above its left end. -/
theorem MaskReg.le_of_field? {m : MaskReg} {p l : Fin 32} (h : m.field? = some (p, l)) : p ≤ l := by
  cases m with
  | field q m =>
    simp only [field?] at h
    split at h
    · cases h
      assumption
    · cases h
  | raw v =>
    have hfound := List.find?_some h
    simp only [Bool.and_eq_true, decide_eq_true_eq] at hfound
    exact hfound.1

/-! ### Bits of a field (R260) -/

section
variable {p l : Fin 32} (h : p ≤ l)
include h

/-- `FM(p, l)` has ones at bits `p` to `l`. -/
theorem fieldMask_getLsbD (j : Nat) : (fieldMask p l).getLsbD j = decide (p.val ≤ j ∧ j ≤ l.val) := by
  rw [Fin.le_def] at h
  rw [fieldMask, BitVec.getLsbD_ofNat, Nat.testBit_mul_two_pow, Nat.testBit_two_pow_sub_one, Bool.eq_iff_iff]
  simp only [Bool.and_eq_true, decide_eq_true_eq]
  omega

theorem fieldCleared_getLsbD (x : Word) {j : Nat} (hj : j < 32) :
    (x &&& ~~~fieldMask p l).getLsbD j = if p.val ≤ j ∧ j ≤ l.val then false else x.getLsbD j := by
  rw [BitVec.getLsbD_and, not_getLsbD_of_lt _ hj, fieldMask_getLsbD h]
  split <;> simp [*]

theorem fieldSet_getLsbD (x : Word) (j : Nat) :
    (x ||| fieldMask p l).getLsbD j = if p.val ≤ j ∧ j ≤ l.val then true else x.getLsbD j := by
  rw [BitVec.getLsbD_or, fieldMask_getLsbD h]
  split <;> simp [*]

/-- The low bits of a word moved into the field (Dep, Ins). -/
theorem fieldPlaced_getLsbD (x : Word) {j : Nat} (hj : j < 32) :
    ((x <<< p.val) &&& fieldMask p l).getLsbD j =
      if p.val ≤ j ∧ j ≤ l.val then x.getLsbD (j - p.val) else false := by
  rw [BitVec.getLsbD_and, fieldMask_getLsbD h, shiftLeft_getLsbD_of_lt _ _ hj]
  split <;> simp [*]

theorem fieldReplaced_getLsbD (x y : Word) {j : Nat} (hj : j < 32) :
    ((x &&& ~~~fieldMask p l) ||| ((y <<< p.val) &&& fieldMask p l)).getLsbD j =
      if p.val ≤ j ∧ j ≤ l.val then y.getLsbD (j - p.val) else x.getLsbD j := by
  rw [BitVec.getLsbD_or, fieldCleared_getLsbD h x hj, fieldPlaced_getLsbD h y hj]
  split <;> simp

/-- The field moved to the low end of a word (ExtU, ExtS, TstF). -/
theorem fieldTaken_getLsbD (x : Word) (j : Nat) :
    ((x &&& fieldMask p l) >>> p.val).getLsbD j = (decide (j ≤ l.val - p.val) && x.getLsbD (j + p.val)) := by
  have hin : p.val ≤ p.val + j ∧ p.val + j ≤ l.val ↔ j ≤ l.val - p.val := by
    rw [Fin.le_def] at h
    omega
  rw [BitVec.getLsbD_ushiftRight, BitVec.getLsbD_and, fieldMask_getLsbD h, decide_eq_decide.mpr hin, Bool.and_comm,
    Nat.add_comm]

theorem fieldTaken_eq_zero_iff (x : Word) :
    (x &&& fieldMask p l) >>> p.val = 0 ↔ ∀ j, p.val ≤ j → j ≤ l.val → x.getLsbD j = false := by
  rw [Fin.le_def] at h
  refine BitVec.zero_iff_eq_false.trans ⟨fun hzero j hp hl => ?_, fun hclear j => ?_⟩
  · have hbit := hzero (j - p.val)
    rwa [fieldTaken_getLsbD h, Nat.sub_add_cancel hp, decide_eq_true (by omega), Bool.true_and] at hbit
  · rw [fieldTaken_getLsbD h, Bool.and_eq_false_imp, decide_eq_true_iff]
    exact fun hj => hclear _ (by omega) (by omega)

/-- Sign extended, the field's bits stand below and its left end's above. -/
theorem fieldSigned_getLsbD (x : Word) {j : Nat} (hj : j < 32) :
    (signExtendFrom (l.val - p.val + 1) ((x &&& fieldMask p l) >>> p.val)).getLsbD j =
      x.getLsbD (if j ≤ l.val - p.val then j + p.val else l.val) := by
  have hwidth : l.val - p.val + p.val = l.val := Nat.sub_add_cancel h
  rw [signExtendFrom, BitVec.getLsbD_signExtend, decide_eq_true hj, Bool.true_and]
  by_cases hlow : j ≤ l.val - p.val
  · rw [if_pos (by omega), if_pos hlow, BitVec.getLsbD_setWidth, fieldTaken_getLsbD h]
    simp [hlow]
  · rw [if_neg (by omega), if_neg hlow, BitVec.msb_setWidth, Nat.add_sub_cancel, fieldTaken_getLsbD h, hwidth]
    simp

end

/-- The low word of a pair shifted right. -/
theorem pairShifted_getLsbD (x y : Word) (k : Nat) {j : Nat} (hj : j < 32) :
    (((x ++ y : BitVec (32 + 32)) >>> k).setWidth 32).getLsbD j =
      if j + k < 32 then y.getLsbD (j + k) else x.getLsbD (j + k - 32) := by
  rw [BitVec.getLsbD_setWidth, decide_eq_true hj, Bool.true_and, BitVec.getLsbD_ushiftRight, BitVec.getLsbD_append,
    Nat.add_comm k j]

/-! ### The field instructions (R263 to R268, R273; R241) -/

section
variable {s : State} {p l : Fin 32} (h : s.cpu.mask.field? = some (p, l))
include h

theorem State.fieldResult_of_field? (f : Fin 32 → Fin 32 → Word) : s.fieldResult f = f p l := by
  rw [fieldResult, h]

theorem State.commitField_of_field? (r : Reg) (f : Fin 32 → Fin 32 → Word) :
    s.commitField r f = s.commitNZ r (f p l) := by
  rw [commitField, h]

theorem writes_of_fieldResult {i : Instr} {r : Reg} {f : Fin 32 → Fin 32 → Word}
    (hexec : exec i s = .next (s.wr r (s.fieldResult f)).advance) : Writes i s r (f p l) [] (fun _ => True) := by
  rw [State.fieldResult_of_field? h] at hexec
  exact writes_of_wr_advance hexec

theorem writesNZ_of_commitField {i : Instr} {r : Reg} {f : Fin 32 → Fin 32 → Word}
    (hexec : exec i s = .next (s.commitField r f)) : WritesNZ i s r (f p l) := by
  rw [State.commitField_of_field? h] at hexec
  exact writesNZ_of_commitNZ hexec

theorem exec_tstF_of_field? (ra : Reg) : exec (.tstF ra) s =
    .next (s.setNZ ((s.rd ra).getLsbD l.val) ((s.rd ra &&& fieldMask p l) >>> p.val == 0)).advance := by
  show execTstF ra s = _
  rw [execTstF, h]

theorem completes_tstF (ra : Reg) : Completes (.tstF ra) s nzvParts (fun t =>
    t.cpu.flagN = (s.rd ra).getLsbD l.val ∧
    (t.cpu.flagZ = true ↔ ∀ j, p.val ≤ j → j ≤ l.val → (s.rd ra).getLsbD j = false) ∧ t.cpu.flagV = false) := by
  refine completes_of_advance (exec_tstF_of_field? h ra) (unchanged_setNZ _ _ _) (by simp [nzvParts]) ?_
  rw [State.advance_cpu, PU.sequential_flagN, PU.sequential_flagZ, PU.sequential_flagV, State.setNZ_flagN,
    State.setNZ_flagZ, beq_iff_eq]
  exact ⟨rfl, fieldTaken_eq_zero_iff (MaskReg.le_of_field? h) _, State.setNZ_flagV _ _ _⟩

end

/-- Settles O30: the bits of each result under the definition `(p, l)`. -/
theorem fieldInstructions : Obligations.FieldInstructions := by
  refine ⟨fun rb ra s p l h => ?_, fun rb ra s p l h => ?_⟩
  · have hle := MaskReg.le_of_field? h
    refine ⟨⟨_, fun j hj => ?_, writes_of_fieldResult h rfl⟩, ⟨_, fun j _ => ?_, writes_of_fieldResult h rfl⟩,
      ⟨_, fun j hj => ?_, writesNZ_of_commitField h rfl⟩, ⟨_, fun j hj => ?_, writesNZ_of_commitField h rfl⟩⟩
    · exact fieldCleared_getLsbD hle _ hj
    · exact fieldSet_getLsbD hle _ j
    · exact fieldPlaced_getLsbD hle _ hj
    · exact fieldReplaced_getLsbD hle _ _ hj
  · have hle := MaskReg.le_of_field? h
    refine ⟨⟨_, fun j _ => ?_, writesNZ_of_commitField h rfl⟩, ⟨_, fun j hj => ?_, writesNZ_of_commitField h rfl⟩,
      ⟨_, fun j hj => ?_, writesNZ_of_commitField h rfl⟩, completes_tstF h ra⟩
    · exact fieldTaken_getLsbD hle _ j
    · exact fieldSigned_getLsbD hle _ hj
    · exact pairShifted_getLsbD _ _ _ hj

end Sys2Proof.Machine
end

section
/-! SUPPORT. The data cache stays well formed (44_cache_control.md R300): which entries may be put in a set, and each
operation of the data cache as such an entry put. -/

namespace Sys2Proof.Machine

/-! ### A set with one entry replaced -/

theorem mem_of_perm_ways {order : List (Fin 4)} (h : order.Perm [0, 1, 2, 3]) (w : Fin 4) : w ∈ order :=
  h.mem_iff.mpr (by fin_cases w <;> simp)

theorem useWay_perm {order : List (Fin 4)} (h : order.Perm [0, 1, 2, 3]) (w : Fin 4) :
    (useWay order w).Perm [0, 1, 2, 3] :=
  (List.perm_append_singleton ..).trans ((List.perm_cons_erase (mem_of_perm_ways h w)).symm.trans h)

theorem lruWay_perm {order : List (Fin 4)} (h : order.Perm [0, 1, 2, 3]) (w : Fin 4) :
    (lruWay order w).Perm [0, 1, 2, 3] :=
  (List.perm_cons_erase (mem_of_perm_ways h w)).symm.trans h

theorem CacheSet.Wf.congr {s t : State} {i : Fin 16} {c : CacheSet} (hparams : t.params = s.params) (h : c.Wf s i) :
    c.Wf t i := by
  simpa only [CacheSet.Wf, CacheLine.Wf, State.lineBase, State.lineBytes, hparams] using h

section
variable {s : State} {i : Fin 16} {c : CacheSet} (h : c.Wf s i)
include h

/-- A well formed entry may replace entry `w` where no other entry holds its line. -/
theorem CacheSet.Wf.put {w : Fin 4} {e : CacheLine} {order : List (Fin 4)} (he : e.Wf s i)
    (horder : order.Perm [0, 1, 2, 3]) (halone : e.valid = true → ∀ v, c.findWay e.base = some v → v = w) :
    (c.put w e order).Wf s i := by
  have hother : ∀ v, v ≠ w → (c.way v).valid = true → e.valid = true → (c.way v).base ≠ e.base := by
    intro v hv hvalid hevalid hbase
    exact hv (halone hevalid v (hbase ▸ h.findWay hvalid))
  refine ⟨horder, fun v => ?_, fun v x => ?_⟩
  · by_cases hv : v = w
    · rwa [hv, way_put_self]
    · rw [way_put_other c e order hv]
      exact h.2.1 v
  · by_cases hv : v = w <;> by_cases hx : x = w
    · exact fun _ _ _ => hv.trans hx.symm
    · rw [hv, way_put_self, way_put_other c e order hx]
      exact fun hevalid hvalid hbase => absurd hbase.symm (hother x hx hvalid hevalid)
    · rw [hx, way_put_self, way_put_other c e order hv]
      exact fun hvalid hevalid hbase => absurd hbase (hother v hv hvalid hevalid)
    · rw [way_put_other c e order hv, way_put_other c e order hx]
      exact h.2.2 v x

/-- A line whose entry is made invalid is in no entry. -/
theorem CacheSet.Wf.findWay_invalidated {b : PAddr} {w : Fin 4} (hfind : c.findWay b = some w)
    (order : List (Fin 4)) : (c.put w (c.way w).invalidated order).findWay b = none := by
  refine findWay_eq_none fun v hvalid hbase => ?_
  by_cases hv : v = w
  · rw [hv, way_put_self] at hvalid
    cases hvalid
  · rw [way_put_other _ _ _ hv] at hvalid hbase
    subst hbase
    exact hv (Option.some.inj ((h.findWay hvalid).symm.trans hfind))

end

/-! ### Entries that the operations leave -/

section
variable {s : State} {i : Fin 16} {e : CacheLine}

theorem CacheLine.invalidated_wf : e.invalidated.Wf s i := by
  simp [Wf, invalidated]

theorem CacheLine.Wf.onHit (h : e.Wf s i) (pa : PAddr) (store : Bool) {current : List Byte}
    (hcurrent : current.length = s.lineBytes) : (e.onHit pa store current).Wf s i := by
  cases store with
  | false => exact h
  | true =>
    obtain ⟨hline, hlen, -⟩ := h
    refine ⟨hline, ?_, fun _ => rfl⟩
    rintro b ⟨⟩
    cases hback : e.backing with
    | none => exact hcurrent
    | some kept => exact hlen kept hback

theorem CacheLine.filled_wf (d : PageDesc) (pa : PAddr) (store : Bool) {current : List Byte}
    (hcurrent : current.length = s.lineBytes) :
    (CacheLine.filled d (s.lineBase pa) store current).Wf s (setIndex pa) := by
  refine ⟨fun _ => ⟨s.lineBase_lineBase pa, s.setIndex_lineBase pa⟩, ?_, ?_⟩ <;> cases store
  · simp [CacheLine.filled]
  · simpa [CacheLine.filled] using hcurrent
  · simp [CacheLine.filled]
  · simp [CacheLine.filled]

theorem CacheLine.Wf.validated (h : e.Wf s i) : ({ e with dirty := false } : CacheLine).Wf s i := by
  obtain ⟨hline, hlen, hkeeps⟩ := h
  exact ⟨hline, hlen, fun hunstored => hkeeps (.inr (by simpa using hunstored))⟩

/-- A modified entry that is written back and stays. -/
theorem CacheLine.Wf.updated (h : e.Wf s i) (hdirty : e.dirty = true) (m : Memory) :
    ({ e with dirty := false, backing := e.writtenBack m } : CacheLine).Wf s i := by
  obtain ⟨hline, hlen, hkeeps⟩ := h
  refine ⟨hline, fun b hb => ?_, fun hunstored => ?_⟩
  · obtain ⟨kept, hkept, hsame, -⟩ := CacheLine.writtenBack_some hb
    exact hsame.trans (hlen kept hkept)
  · have hunstored : e.unstored ≠ 0 := by simpa using hunstored
    obtain ⟨kept, hkept⟩ := Option.isSome_iff_exists.mp (hkeeps (.inr hunstored))
    simpa [CacheLine.writtenBack, hdirty, hkept] using hunstored

end

@[simp] theorem readBytes_length (m : Memory) (a n : Nat) : (readBytes m a n).length = n := by
  simp [readBytes]

@[simp] theorem freeBytes_length (tick c : Nat) (base : PAddr) (n : Nat) : (freeBytes tick c base n).length = n := by
  simp [freeBytes]

theorem State.usedEntry_wf {s : State} (h : s.CacheWf) (pa : PAddr) (d : PageDesc) (store : Bool) :
    (s.usedEntry pa d store).Wf s (setIndex pa) := by
  cases hfind : (s.cacheSet (setIndex pa)).findWay (s.lineBase pa) with
  | none =>
    rw [usedEntry_of_miss d store hfind]
    exact CacheLine.filled_wf d pa store (readBytes_length ..)
  | some w =>
    rw [usedEntry_of_hit d store hfind]
    exact ((h (setIndex pa)).2.1 w).onHit pa store (readBytes_length ..)

/-! ### The set that CDC makes (R290) -/

/-- The set of `pa` with the line of `pa` dropped. -/
def State.clearedSet (s : State) (pa : PAddr) : CacheSet :=
  match (s.cacheSet (setIndex pa)).findWay (s.lineBase pa) with
  | some v => (s.cacheSet (setIndex pa)).put v ((s.cacheSet (setIndex pa)).way v).invalidated
      (s.cacheSet (setIndex pa)).order
  | none => s.cacheSet (setIndex pa)

/-- Memory once CDC has replaced the set's least recently used entry. -/
def State.memoryCleared (s : State) (pa : PAddr) : Memory :=
  evictLine s.mem ((s.cacheSet (setIndex pa)).way (s.cacheSet (setIndex pa)).lru)

/-- What Main Memory holds of the line that CDC makes. -/
def State.createdMain (s : State) (pa : PAddr) : List Byte :=
  if (s.cacheSet (setIndex pa)).findWay (s.lineBase pa) = none ∨
      (s.cacheSet (setIndex pa)).findWay (s.lineBase pa) = some (s.cacheSet (setIndex pa)).lru
  then readBytes (s.memoryCleared pa) (s.lineBase pa).toNat s.lineBytes
  else freeBytes s.tick 6 (s.lineBase pa) s.lineBytes

/-- The entry that CDC makes. -/
def State.createdEntry (s : State) (pa : PAddr) (d : PageDesc) : CacheLine :=
  ⟨true, false, d.readOnly, d.user, s.lineBase pa, some (s.createdMain pa), s.allWords⟩

theorem State.createLine_eq (s : State) (pa : PAddr) (d : PageDesc) :
    s.createLine pa d = { s with
      mem := writeBytes (s.memoryCleared pa) (s.lineBase pa).toNat (freeBytes s.tick 5 (s.lineBase pa) s.lineBytes)
      dcache := putSet s.dcache (setIndex pa) ((s.clearedSet pa).put (s.cacheSet (setIndex pa)).lru
        (s.createdEntry pa d) (s.cacheSet (setIndex pa)).order) } := by
  cases hfind : (s.cacheSet (setIndex pa)).findWay (s.lineBase pa) with
  | none => simp [createLine, clearedSet, memoryCleared, createdEntry, createdMain, hfind]
  | some v => simp [createLine, clearedSet, memoryCleared, createdEntry, createdMain, hfind]

theorem State.createdMain_length (s : State) (pa : PAddr) : (s.createdMain pa).length = s.lineBytes := by
  unfold createdMain
  split <;> simp

theorem State.createdEntry_wf (s : State) (pa : PAddr) (d : PageDesc) :
    (s.createdEntry pa d).Wf s (setIndex pa) := by
  refine ⟨fun _ => ⟨s.lineBase_lineBase pa, s.setIndex_lineBase pa⟩, ?_, fun _ => rfl⟩
  rintro b ⟨⟩
  exact s.createdMain_length pa

section
variable {s : State} (h : s.CacheWf) (pa : PAddr)
include h

theorem State.clearedSet_wf : (s.clearedSet pa).Wf s (setIndex pa) := by
  unfold clearedSet
  split
  · exact (h _).put CacheLine.invalidated_wf (h _).1 (fun hvalid => by cases hvalid)
  · exact h _

theorem State.clearedSet_findWay : (s.clearedSet pa).findWay (s.lineBase pa) = none := by
  unfold clearedSet
  split
  · exact (h _).findWay_invalidated ‹_› _
  · assumption

end

/-! ### The operations -/

/-- A well formed set in the place of one of a well formed cache. -/
theorem State.CacheWf.putSet {s t : State} {i : Fin 16} {c : CacheSet} (h : s.CacheWf) (hparams : t.params = s.params)
    (hcache : t.dcache = putSet s.dcache i c) (hc : c.Wf s i) : t.CacheWf := by
  intro j
  rw [cacheSet_putSet hcache]
  split
  · rename_i hj
    rw [hj]
    exact hc.congr hparams
  · exact (h j).congr hparams

theorem State.CacheWf.congr {s t : State} (h : s.CacheWf) (hparams : t.params = s.params)
    (hcache : t.dcache = s.dcache) : t.CacheWf := by
  intro i
  rw [show t.cacheSet i = s.cacheSet i by unfold cacheSet; rw [hcache]]
  exact (h i).congr hparams

section
variable {s : State} (h : s.CacheWf) (pa : PAddr)
include h

theorem State.CacheWf.useLine (d : PageDesc) (store : Bool) : (s.useLine pa d store).CacheWf := by
  obtain ⟨c, hc⟩ := s.useLine_eq pa d store
  refine h.putSet (by rw [hc]) (s.useLine_dcache pa d store) ((h _).put (usedEntry_wf h pa d store)
    (useWay_perm (h _).1 _) fun _ v hv => ?_)
  rw [(s.usedEntry_line pa d store).2] at hv
  exact (usedWay_of_hit hv).symm

theorem State.CacheWf.flushLine : (s.flushLine pa).CacheWf := by
  unfold State.flushLine
  dsimp only
  split
  · exact h
  · exact h.putSet rfl rfl ((h _).put CacheLine.invalidated_wf (lruWay_perm (h _).1 _) (fun hvalid => by cases hvalid))

theorem State.CacheWf.invalidateLine : (s.invalidateLine pa).CacheWf := by
  unfold State.invalidateLine
  dsimp only
  split
  · exact h
  · exact h.putSet rfl rfl ((h _).put CacheLine.invalidated_wf (lruWay_perm (h _).1 _) (fun hvalid => by cases hvalid))

theorem State.CacheWf.updateLine : (s.updateLine pa).CacheWf := by
  unfold State.updateLine
  dsimp only
  split
  · exact h
  · rename_i w hfind
    split
    · exact h.putSet rfl rfl ((h _).put (((h _).2.1 w).updated ‹_› _) (h _).1 fun hvalid v hv =>
        Option.some.inj (hv.symm.trans ((h _).findWay hvalid)))
    · exact h

theorem State.CacheWf.validateLine : (s.validateLine pa).CacheWf := by
  unfold State.validateLine
  dsimp only
  split
  · exact h
  · rename_i w hfind
    split
    · exact h.putSet rfl rfl ((h _).put ((h _).2.1 w).validated (h _).1 fun hvalid v hv =>
        Option.some.inj (hv.symm.trans ((h _).findWay hvalid)))
    · exact h

theorem State.CacheWf.createLine (d : PageDesc) : (s.createLine pa d).CacheWf := by
  rw [State.createLine_eq]
  refine h.putSet rfl rfl ((clearedSet_wf h pa).put (s.createdEntry_wf pa d) (h _).1 fun _ v hv => ?_)
  exact absurd (hv.symm.trans (clearedSet_findWay h pa)) (by simp)

theorem State.CacheWf.prefetchData (d : PageDesc) : (s.prefetchData pa d).CacheWf := by
  unfold State.prefetchData
  split
  · exact h
  · dsimp only
    split
    · exact (h.useLine pa d false).congr (by obtain ⟨c, hc⟩ := s.useLine_eq pa d false; rw [hc]) rfl
    · exact h

end

end Sys2Proof.Machine
end

section
/-! SUPPORT. The conditions on a PU (45_control.md R322, R332, 70_reset_and_hazards.md R398) and what keeps them: each
operation on a PU, said once. -/

namespace Sys2Proof.Machine

/-- The conditions on a PU but that every ended Wait has been counted, which holds between steps only. -/
structure PU.Sound (u : PU) : Prop where
  returns : u.ReturnWf
  waits : u.WaitWf
  inFlight : u.InFlightWf
  runs : u.RunWf

theorem PU.Wf.sound {u : PU} (h : u.Wf) : u.Sound := by
  obtain ⟨hreturn, hwait, hflight, hrun, -⟩ := h
  exact ⟨hreturn, hwait, hflight, hrun⟩

/-! ### Result-pending intervals (R398) -/

theorem PU.InFlightWf.congr {u v : PU} (h : u.InFlightWf) (hsame : v.inflight = u.inflight) : v.InFlightWf := by
  unfold InFlightWf
  rwa [hsame]

theorem PU.InFlightWf.spoil {u : PU} (h : u.InFlightWf) (d : Dest) : (u.spoil d).InFlightWf := by
  obtain ⟨hlasts, honce⟩ := h
  refine ⟨fun e he => ?_, ?_⟩
  · obtain ⟨f, hf, rfl⟩ := List.mem_map.mp he
    split <;> exact hlasts f hf
  · have hdest : (fun e : InFlight => (if e.dest = d then { e with spoiled := true } else e).dest) =
        InFlight.dest := by
      funext e
      split <;> rfl
    simp only [PU.spoil, List.map_map]
    exact (congrArg (fun f => (u.inflight.map f).Nodup) hdest).mpr honce

/-- A Mul or Div issues for registers of its own, each named once. -/
theorem PU.InFlightWf.issue {u : PU} (h : u.InFlightWf) {ds : List Dest} {n : Nat} (hn : ds = [] ∨ 1 ≤ n)
    (hds : ds.Nodup) : (u.issue ds n).InFlightWf := by
  obtain ⟨hlasts, honce⟩ := h
  refine ⟨fun e he => ?_, ?_⟩
  · obtain he | he := List.mem_append.mp he
    · obtain ⟨f, hf, rfl⟩ := List.mem_map.mp he
      have hone := hlasts f hf
      dsimp only
      split
      · exact hone.trans (Nat.le_max_left ..)
      · exact hone
    · obtain ⟨d, hd, rfl⟩ := List.mem_map.mp he
      obtain rfl | hn := hn
      · simp at hd
      · exact hn
  · simp only [PU.issue, List.map_append, List.map_map]
    refine List.Nodup.append honce ?_ fun d hold hnew => ?_
    · simpa [Function.comp_def] using hds.filter _
    · obtain ⟨e, he, rfl⟩ := List.mem_map.mp hold
      have hidle : e.dest ∈ ds ∧ u.busy e.dest = false := by
        simpa [Function.comp_def] using (show _ from hnew : e.dest ∈ _)
      have hbusy : u.busy e.dest = true := List.any_eq_true.mpr ⟨e, he, beq_self_eq_true _⟩
      exact absurd (hidle.2.symm.trans hbusy) Bool.false_ne_true

/-- One instruction later every interval is shorter, and those that end are gone. -/
theorem PU.InFlightWf.retire {u : PU} (h : u.InFlightWf) (p : PuId) (tick : Nat) : (u.retire p tick).InFlightWf := by
  obtain ⟨-, honce⟩ := h
  refine ⟨fun e he => ?_, ?_⟩
  · obtain ⟨f, hf, rfl⟩ := List.mem_map.mp he
    have hmore : 1 < f.left := by simpa using (List.mem_filter.mp hf).2
    show 1 ≤ f.left - 1
    omega
  · simp only [PU.retire, List.map_map]
    exact honce.sublist (List.filter_sublist.map _)

/-! ### Marks that are not set -/

theorem PU.ReturnWf.of_unmarked {u : PU} (h : u.rti1 = false) : u.ReturnWf := by
  simp [ReturnWf, h]

theorem PU.WaitWf.of_none {u : PU} (h : u.waitMask = none) : u.WaitWf := by
  simp [WaitWf, h]

theorem PU.RunWf.of_none {u : PU} (h : u.run = none) : u.RunWf := by
  simp [RunWf, h]

theorem PU.withBit_getLsbD (u : PU) {i j : Nat} (b : Bool) (hi : i < 32) (h : j ≠ i) :
    (u.withBit i b).sscr.getLsbD j = u.sscr.getLsbD j := by
  rw [withBit_sscr, setBit_getLsbD _ _ _ _ hi, if_neg h]

/-! ### What the conditions read -/

section
variable {u v : PU} (h : u.Sound)
include h

/-- The conditions are kept by whatever keeps T, U, W, the marks of a return and a Wait, and well formed intervals, and
leaves the rest of an instruction as it was or ends it. -/
theorem PU.Sound.of_same (hstatus : ∀ j ∈ [11, 12, 25], v.sscr.getLsbD j = u.sscr.getLsbD j)
    (hrti : v.rti1 = u.rti1) (hwait : v.waitMask = u.waitMask) (hflight : v.InFlightWf)
    (hrun : v.run = u.run ∨ v.run = none) : v.Sound := by
  have hT : v.flagT = u.flagT := hstatus 11 (by simp)
  have hU : v.flagU = u.flagU := hstatus 12 (by simp)
  have hW : v.flagW = u.flagW := hstatus 25 (by simp)
  refine ⟨?_, ?_, hflight, ?_⟩
  · simpa only [PU.ReturnWf, hrti, hT, hU] using h.returns
  · simpa only [PU.WaitWf, hwait, hW] using h.waits
  · obtain hrun | hrun := hrun
    · simpa only [PU.RunWf, hrun, hW] using h.runs
    · exact .of_none hrun

/-- An entry's and a register's contents are no matter. -/
theorem PU.Sound.of_frame (hstatus : v.sscr = u.sscr) (hrti : v.rti1 = u.rti1) (hwait : v.waitMask = u.waitMask)
    (hflight : v.inflight = u.inflight) (hrun : v.run = u.run ∨ v.run = none) : v.Sound :=
  h.of_same (fun _ _ => by rw [hstatus]) hrti hwait (h.inFlight.congr hflight) hrun

/-! ### The operations on a PU -/

theorem PU.Sound.mapStatus {g : Word → Word} (hg : ∀ j ∈ [11, 12, 25], (g u.sscr).getLsbD j = u.sscr.getLsbD j) :
    ({ u with sscr := g u.sscr } : PU).Sound :=
  h.of_same hg rfl rfl h.inFlight (.inl rfl)

theorem PU.Sound.withBit {i : Nat} (b : Bool) (hi : i ∉ [11, 12, 25]) (hlt : i < 32) : (u.withBit i b).Sound :=
  h.of_same (fun _ hj => u.withBit_getLsbD b hlt fun he => hi (he ▸ hj)) rfl rfl h.inFlight (.inl rfl)

theorem PU.Sound.withRCnt (k : BitVec 4) : (u.withRCnt k).Sound :=
  h.of_same (fun j hj => PU.withRCnt_getLsbD u k (by simp at hj; omega)) rfl rfl h.inFlight (.inl rfl)

theorem PU.Sound.putDest (d : Dest) (x : Word) : (u.putDest d x).Sound :=
  h.of_frame (by simp) (by simp) (by simp) (by simp) (.inl (by simp))

theorem PU.Sound.writeDest (d : Dest) (x : Word) : (u.writeDest d x).Sound :=
  h.of_same (by simp) (by simp) (by simp) ((h.inFlight.spoil d).congr (by simp)) (.inl (by simp))

theorem PU.Sound.issue {ds : List Dest} {n : Nat} (hn : ds = [] ∨ 1 ≤ n) (hds : ds.Nodup) : (u.issue ds n).Sound :=
  h.of_same (by simp) rfl rfl (h.inFlight.issue hn hds) (.inl rfl)

theorem PU.Sound.sequential : u.sequential.Sound := h.of_frame rfl rfl rfl rfl (.inr rfl)

theorem PU.Sound.sequentialExtended : u.sequentialExtended.Sound := h.of_frame rfl rfl rfl rfl (.inr rfl)

theorem PU.Sound.transfer (a : HAddr) : (u.transfer a).Sound := h.of_frame rfl rfl rfl rfl (.inr rfl)

theorem PU.Sound.track : u.track.Sound := by
  unfold PU.track
  split
  · exact h.of_frame rfl rfl rfl rfl (.inl rfl)
  · exact h

/-- At the entry of an exception nothing is left of what the PU was in. -/
theorem PU.Sound.enterVector (p : PuId) (tick : Nat) (n : Fin 32) : (u.enterVector p tick n).Sound :=
  ⟨.of_unmarked rfl, .of_none rfl, h.inFlight.congr rfl, .of_none rfl⟩

theorem PU.Sound.enter (p : PuId) (tick : Nat) (n : Fin 32) (sv : HAddr × HAddr) : (u.enter p tick n sv).Sound := by
  unfold PU.enter
  refine PU.Sound.enterVector ?_ p tick n
  split <;> exact h.of_frame rfl rfl rfl rfl (.inl rfl)

theorem PU.Sound.resetBy (p : PuId) (tick : Nat) (enters : Bool) : (u.resetBy p tick enters).Sound := by
  have hsaved : (u.saveFree p tick).Sound := h.of_frame rfl rfl rfl rfl (.inl rfl)
  cases enters with
  | true => exact hsaved.enterVector p tick numReset
  | false => exact ⟨.of_unmarked rfl, .of_none rfl, h.inFlight.congr rfl, .of_none rfl⟩

/-- A PU whose Wait ends is in none, and not within an instruction. -/
theorem PU.Sound.leaveWait : u.leaveWait.Sound := by
  refine ⟨fun hrti => ?_, .of_none rfl, h.inFlight.congr rfl, .of_none rfl⟩
  have hT : u.leaveWait.flagT = u.flagT := PU.leaveWait_status u (by decide)
  have hU : u.leaveWait.flagU = u.flagU := PU.leaveWait_status u (by decide)
  rw [hT, hU]
  exact h.returns hrti

theorem PU.Sound.resume : u.resume.Sound := by
  have hclear : (u.withBit bitA false).Sound := h.withBit false (by decide) (by decide)
  unfold PU.resume
  dsimp only
  split
  · exact hclear.leaveWait
  · exact hclear

theorem PU.Sound.start (a : HAddr) : (u.start a).Sound := by
  refine ⟨fun hrti => ?_, .of_none rfl, h.inFlight.congr rfl, .of_none rfl⟩
  have hstatus : ∀ j, j ≠ bitA → j ≠ bitW → (u.start a).sscr.getLsbD j = u.sscr.getLsbD j := fun j hA hW =>
    ((u.withBit bitA false).withBit_getLsbD false (by decide) hW).trans (u.withBit_getLsbD false (by decide) hA)
  have hT : (u.start a).flagT = u.flagT := hstatus 11 (by decide) (by decide)
  have hU : (u.start a).flagU = u.flagU := hstatus 12 (by decide) (by decide)
  rw [hT, hU]
  exact h.returns hrti

/-- A Wait blocks a PU that is within no other instruction. -/
theorem PU.Sound.wait (m : BitVec 4) (hrun : u.run = none) :
    ({ u.withBit bitW true with waitMask := some m } : PU).Sound := by
  refine ⟨fun hrti => ?_, fun _ => setBit_same _ _ _ (by decide), h.inFlight.congr rfl, .of_none hrun⟩
  obtain ⟨hT, hU⟩ := h.returns hrti
  exact ⟨(u.withBit_getLsbD true (by decide) (by decide)).trans hT,
    (u.withBit_getLsbD true (by decide) (by decide)).trans hU⟩

/-- What is left of an instruction of a PU that is not halted: a fetch or an access, or a transfer of a run. -/
theorem PU.Sound.withRun {r : Rest} (hW : u.flagW = false)
    (hr : ∀ x, r = .move x → 1 ≤ x.next.val ∧ x.next ≤ x.count) : ({ u with run := some r } : PU).Sound :=
  ⟨h.returns, h.waits, h.inFlight, fun _ => hW, fun x hx => hr x (Option.some.inj hx)⟩

theorem PU.Sound.returnFirst (hT : u.flagT = false) (hU : u.flagU = false) : u.returnFirst.Sound :=
  ⟨fun _ => ⟨hT, hU⟩, h.waits, h.inFlight.congr rfl, .of_none rfl⟩

theorem PU.Sound.returnSecond (hW : u.flagW = false) : u.returnSecond.Sound := by
  refine ⟨.of_unmarked rfl, fun hwait => ?_, h.inFlight.congr rfl, .of_none rfl⟩
  exact absurd (hW.symm.trans (h.waits hwait)) Bool.false_ne_true

/-- A mode bit changes outside a pair of RtIs only. -/
theorem PU.Sound.withModeBit (hrti : u.rti1 = false) {i : Nat} (b : Bool) (hi : i < 16) : (u.withBit i b).Sound := by
  have hW : (u.withBit i b).flagW = u.flagW := u.withBit_getLsbD b (by omega) (by omega)
  refine ⟨.of_unmarked hrti, fun hwait => hW.trans (h.waits hwait), h.inFlight, ?_⟩
  obtain ⟨hrunning, hnext⟩ := h.runs
  exact ⟨fun hrun => hW.trans (hrunning hrun), hnext⟩

/-- At the end of a step a PU's ended Wait has been counted. -/
theorem PU.Sound.retire (p : PuId) (tick : Nat) : (u.retire p tick).Sound := by
  have hsettled : (u.inflight.foldl (PU.settle p tick) u).Sound := by
    generalize u.inflight = es
    induction es generalizing u with
    | nil => exact h
    | cons e es ih =>
      refine ih ?_
      unfold PU.settle
      split
      · exact h.putDest _ _
      · exact h
  exact hsettled.of_same (fun _ _ => rfl) rfl rfl (h.inFlight.retire p tick) (.inl rfl)

end

end Sys2Proof.Machine
end

section
/-! SUPPORT. What each shared operation keeps of the caches, the record of stores, the marks of the PUs and the chip's
parameters (44_cache_control.md R300, 45_control.md R322, R332, 70_reset_and_hazards.md R398). -/

namespace Sys2Proof.Machine

/-- From `s` to `t` the chip's parameters stay, and so does that the data cache, the record of stores and the PUs are
well formed. -/
structure Kept (s t : State) : Prop where
  params : t.params = s.params
  cache : s.CacheWf → t.CacheWf
  stored : s.StoredWf → t.StoredWf
  pus : (∀ p, (s.pu p).Sound) → ∀ p, (t.pu p).Sound

theorem Kept.refl (s : State) : Kept s s := ⟨rfl, id, id, id⟩

/-! ### Updates of the state -/

/-- A condition code is none of T, U and W. -/
theorem setBit_flag {w : Word} {i j : Nat} {b : Bool} (hj : j ∈ [11, 12, 25]) (hlow : 16 ≤ i) (hhigh : i < 25) :
    (setBit w i b).getLsbD j = w.getLsbD j := by
  simp only [List.mem_cons, List.not_mem_nil, or_false] at hj
  rw [setBit_getLsbD _ _ _ _ (by omega), if_neg (by omega)]

section
variable {s t : State} (h : Kept s t)
include h

theorem Kept.trans {v : State} (h' : Kept t v) : Kept s v :=
  ⟨h'.params.trans h.params, h'.cache ∘ h.cache, h'.stored ∘ h.stored, h'.pus ∘ h.pus⟩

/-- A change of other pieces of the state. -/
theorem Kept.of_same {v : State} (hparams : v.params = t.params) (hcache : v.dcache = t.dcache)
    (hstored : v.stored = t.stored) (hpu : ∀ p, v.pu p = t.pu p) : Kept s v := by
  refine h.trans ⟨hparams, fun hc => hc.congr hparams hcache, fun hs => ?_, fun hp p => ?_⟩
  · unfold State.StoredWf
    rwa [hstored]
  · rw [hpu]
    exact hp p

/-- A change of the data cache, and of other pieces of the state. -/
theorem Kept.of_cache {v : State} (hparams : v.params = t.params) (hcache : t.CacheWf → v.CacheWf)
    (hstored : v.stored = t.stored) (hpu : ∀ p, v.pu p = t.pu p) : Kept s v := by
  refine h.trans ⟨hparams, hcache, fun hs => ?_, fun hp p => ?_⟩
  · unfold State.StoredWf
    rwa [hstored]
  · rw [hpu]
    exact hp p

/-- A change of the record of stores, and of other pieces of the state. -/
theorem Kept.of_stored {v : State} (hparams : v.params = t.params) (hcache : v.dcache = t.dcache)
    (hstored : t.StoredWf → v.StoredWf) (hpu : ∀ p, v.pu p = t.pu p) : Kept s v := by
  refine h.trans ⟨hparams, fun hc => hc.congr hparams hcache, hstored, fun hp p => ?_⟩
  rw [hpu]
  exact hp p

/-- A change of the PUs, each by itself, and of other pieces of the state. -/
theorem Kept.of_pus {v : State} (hparams : v.params = t.params) (hcache : v.dcache = t.dcache)
    (hstored : v.stored = t.stored) (hpu : (∀ p, (s.pu p).Sound) → ∀ p, (t.pu p).Sound → (v.pu p).Sound) :
    Kept s v := by
  refine ⟨hparams.trans h.params, fun hc => (h.cache hc).congr hparams hcache, fun hs => ?_, fun hp p => ?_⟩
  · unfold State.StoredWf
    rw [hstored]
    exact h.stored hs
  · exact hpu hp p (h.pus hp p)

theorem Kept.setPu_of {q : PuId} {u : PU} (hu : (∀ p, (s.pu p).Sound) → (t.pu q).Sound → u.Sound) :
    Kept s (t.setPu q u) := by
  refine h.of_pus (State.setPu_params ..) (State.setPu_dcache ..) (State.setPu_stored ..) fun hs p hp => ?_
  rw [State.setPu_pu]
  split
  · rename_i hpq
    subst hpq
    exact hu hs hp
  · exact hp

theorem Kept.setPu {q : PuId} {u : PU} (hu : (t.pu q).Sound → u.Sound) : Kept s (t.setPu q u) :=
  h.setPu_of fun _ => hu

theorem Kept.modCpu {f : PU → PU} (hf : t.cpu.Sound → (f t.cpu).Sound) : Kept s (t.modCpu f) := h.setPu hf

theorem Kept.withEvent (e : StepEvent) : Kept s { t with event := e } :=
  h.of_same rfl rfl rfl fun p => State.pu_with_event t e p

/-! ### Registers, flags and the ends of an instruction -/

theorem Kept.wr (r : Reg) (v : Word) : Kept s (t.wr r v) := h.modCpu fun hu => hu.writeDest _ v

theorem Kept.mapStatus {g : Word → Word}
    (hg : ∀ w : Word, ∀ j ∈ [11, 12, 25], (g w).getLsbD j = w.getLsbD j) :
    Kept s (t.modCpu (fun u => { u with sscr := g u.sscr })) :=
  h.modCpu fun hu => hu.mapStatus (hg _)

theorem Kept.withBit {i : Nat} (b : Bool) (hi : i ∉ [11, 12, 25]) (hlt : i < 32) :
    Kept s (t.modCpu (fun u => u.withBit i b)) :=
  h.modCpu fun hu => hu.withBit b hi hlt

theorem Kept.withRCnt (k : BitVec 4) : Kept s (t.modCpu (fun u => u.withRCnt k)) := h.modCpu fun hu => hu.withRCnt k

theorem Kept.setFlags (f : Flags) : Kept s (t.setFlags f) :=
  h.mapStatus (g := fun w => withFlags w f) fun w j hj => by
    simp only [withFlags, setBit_flag hj, Nat.reduceLeDiff, Nat.reduceLT]

theorem Kept.setNZ (n z : Bool) : Kept s (t.setNZ n z) :=
  h.mapStatus (g := fun w => setBit (setBit (setBit w 16 z) 17 n) 18 false) fun w j hj => by
    simp only [setBit_flag hj, Nat.reduceLeDiff, Nat.reduceLT]

theorem Kept.setNZkeepV (n z : Bool) : Kept s (t.setNZkeepV n z) :=
  h.mapStatus (g := fun w => setBit (setBit w 16 z) 17 n) fun w j hj => by
    simp only [setBit_flag hj, Nat.reduceLeDiff, Nat.reduceLT]

theorem Kept.setCarry (c : Bool) : Kept s (t.setCarry c) :=
  h.mapStatus (g := fun w => setBit (setBit (setBit (setBit w 19 c) 20 false) 21 false) 22 false) fun w j hj => by
    simp only [setBit_flag hj, Nat.reduceLeDiff, Nat.reduceLT]

theorem Kept.advance : Kept s t.advance := (h.modCpu fun hu => hu.sequential).withEvent _

theorem Kept.advanceExtended : Kept s t.advanceExtended := (h.modCpu fun hu => hu.sequentialExtended).withEvent _

theorem Kept.advanceBranch : Kept s t.advanceBranch :=
  h.advance.modCpu fun hu => hu.of_frame rfl rfl rfl rfl (.inl rfl)

theorem Kept.stay : Kept s t.stay := h.withEvent _

theorem Kept.skipSlot : Kept s t.skipSlot :=
  (h.modCpu fun hu => (hu.withBit false (by decide) (by decide)).sequential).withEvent _

/-! ### Exceptions -/

theorem Kept.enter (p : PuId) (n : Fin 32) (sv : HAddr × HAddr) : Kept s (t.enter p n sv) := by
  rw [State.enter_eq]
  refine (h.setPu fun hu => hu.enter p t.tick n sv).of_same rfl rfl rfl fun q => ?_
  cases q <;> rfl

theorem Kept.raiseAt (n : Fin 32) (sv : HAddr × HAddr) : Kept s (t.raiseAt n sv) := h.enter _ _ _

theorem Kept.raise (n : Fin 32) : Kept s (t.raise n) := h.raiseAt _ _

theorem Kept.raiseIllegal : Kept s t.raiseIllegal := h.raise _

theorem Kept.takeBranch (a : HAddr) : Kept s (t.takeBranch a) := by
  have hmoved : Kept s (t.modCpu (fun u => u.transfer a)) := h.modCpu fun hu => hu.transfer a
  unfold State.takeBranch
  dsimp only
  split
  · exact (hmoved.raise _).withEvent _
  · exact hmoved.withEvent _

theorem Kept.recordArgument (ptr : Word) : Kept s (t.recordArgument ptr) := by
  refine h.modCpu fun hu => ?_
  split
  · exact hu.of_frame rfl rfl rfl rfl (.inl rfl)
  · exact hu

theorem Kept.dataFault (f : MemFault) (ptr : Word) : Kept s (t.dataFault f ptr) := (h.recordArgument ptr).raise _

theorem Kept.fetchFault (second : Bool) (f : MemFault) (a : HAddr) : Kept s (t.fetchFault second f a) := by
  have hmarked : Kept s (t.modCpu (fun u => u.withBit bitSH second)) := h.withBit second (by decide) (by decide)
  cases f with
  | nodeBusy => exact (hmarked.recordArgument _).raise _
  | pageFault | accessFault => exact hmarked.raise _

/-! ### Interrupts and Waits -/

theorem Kept.clearCause (n : Fin 32) : Kept s (t.clearCause n) := by
  have hsame : ∀ (pend : Pending) (s14 : Word), Kept s { t with pend := pend, s14 := s14 } := fun pend s14 =>
    h.of_same rfl rfl rfl fun p => by cases p <;> rfl
  unfold State.clearCause
  repeat' split
  · exact hsame _ t.s14
  · exact hsame _ t.s14
  · exact h.modCpu fun hu => hu.of_frame rfl rfl rfl rfl (.inl rfl)
  · exact hsame _ t.s14
  · exact hsame _ t.s14
  · exact h.modCpu fun hu => hu.of_frame rfl rfl rfl rfl (.inl rfl)
  · exact hsame _ _
  · exact h

theorem Kept.takeInterrupt (n : Fin 32) : Kept s (t.takeInterrupt n) := by
  have hcleared := h.clearCause n
  unfold State.takeInterrupt
  dsimp only
  refine Kept.withEvent ?_ _
  split
  · refine hcleared.of_pus rfl rfl rfl fun _ p hp => ?_
    rw [State.resetAll_pu]
    exact hp.resetBy ..
  · exact hcleared.enter _ _ _

theorem Kept.releaseWaits : Kept s t.releaseWaits := by
  refine h.of_pus rfl rfl rfl fun _ p hp => ?_
  rw [State.releaseWaits_pu]
  split
  · exact hp.leaveWait
  · exact hp

theorem Kept.haltedSlot : Kept s t.haltedSlot := h.releaseWaits.withEvent _

theorem Kept.forPus {ps : List PuId} {f : PU → PU} (hf : ∀ u : PU, u.Sound → (f u).Sound) :
    Kept s (t.forPus ps f) := by
  unfold State.forPus
  induction ps generalizing t with
  | nil => exact h
  | cons p ps ih => exact ih (h.setPu (hf _))

/-! ### The beginning and the end of a step -/

theorem Kept.input : Kept s t.input := by
  unfold State.input
  split
  · exact h
  · rename_i x rest hinputs
    have htaken : Kept s { t with inputs := rest, turn := x.pu } := h.of_same rfl rfl rfl fun p => by cases p <;> rfl
    dsimp only
    split
    · exact htaken
    · unfold State.arrive
      split <;> exact htaken.of_same rfl rfl rfl fun p => by cases p <;> rfl

theorem Kept.beginStep : Kept s t.beginStep := by
  have hthawed : Kept s t.input.thaw := by
    unfold State.thaw
    split
    · exact h.input
    · exact h.input.modCpu fun hu => hu.of_frame rfl rfl rfl rfl (.inl rfl)
  exact (hthawed.modCpu fun hu => hu.track).withEvent _

theorem Kept.finishStep (user : Bool) : Kept s (t.finishStep user) := by
  refine h.of_pus rfl rfl rfl fun _ p hp => ?_
  rw [State.finishStep_pu]
  unfold State.retired
  dsimp only
  split
  · exact (hp.retire p t.tick).of_frame rfl rfl rfl rfl (.inl rfl)
  · exact hp.of_frame rfl rfl rfl rfl (.inl rfl)

/-! ### Accesses -/

theorem Kept.withTlb (l : List TlbEntry) : Kept s { t with tlb := l } :=
  h.of_same rfl rfl rfl fun p => State.pu_with_tlb t l p

theorem Kept.fillTlb (va : VAddr) : Kept s (t.fillTlb va) := by
  obtain ⟨l, hl⟩ := t.fillTlb_eq va
  rw [hl]
  exact h.withTlb l

theorem Kept.noteHalf (pa : PAddr) : Kept s (t.noteHalf pa) :=
  h.of_stored rfl rfl (fun hs => State.noteHalf_storedWf hs pa) (State.noteHalf_pu t pa)

theorem Kept.withMem (m : Memory) : Kept s { t with mem := m } :=
  h.of_same rfl rfl rfl fun p => State.pu_with_mem t m p

theorem Kept.useLine (pa : PAddr) (d : PageDesc) (store : Bool) : Kept s (t.useLine pa d store) := by
  obtain ⟨c, hc⟩ := t.useLine_eq pa d store
  refine h.of_cache ?_ (fun hcache => hcache.useLine pa d store) ?_ fun p => ?_
  · rw [hc]
  · rw [hc]
  · rw [hc]
    cases p <;> rfl

theorem Kept.accessed (va : VAddr) (pa : PAddr) (d : PageDesc) (store : Bool) : Kept s (t.accessed va pa d store) :=
  (h.fillTlb va).useLine pa d store

theorem Kept.loadWord {wa : WAddr} {v : Word} {u : State} (hload : t.loadWord wa = .ok (v, u)) : Kept s u := by
  unfold State.loadWord at hload
  dsimp only at hload
  split at hload
  · cases hload
  · cases hload
    exact h.fillTlb _
  · cases hload
    exact h.accessed ..

theorem Kept.loadByte {va : VAddr} {b : Byte} {u : State} (hload : t.loadByte va = .ok (b, u)) : Kept s u := by
  unfold State.loadByte at hload
  split at hload
  · cases hload
  · cases hload
    exact h.fillTlb _
  · cases hload
    exact h.accessed ..

theorem Kept.storeWord {wa : WAddr} {v : Word} {u : State} (hstore : t.storeWord wa v = .ok u) : Kept s u := by
  unfold State.storeWord at hstore
  dsimp only at hstore
  split at hstore
  · cases hstore
  · cases hstore
    exact h.fillTlb _
  · cases hstore
    exact (((h.accessed ..).withMem _).noteHalf _).noteHalf _

theorem Kept.storeByte {va : VAddr} {b : Byte} {u : State} (hstore : t.storeByte va b = .ok u) : Kept s u := by
  unfold State.storeByte at hstore
  split at hstore
  · cases hstore
  · cases hstore
    exact h.fillTlb _
  · cases hstore
    exact ((h.accessed ..).withMem _).noteHalf _

theorem Kept.fetchHalf {a : HAddr} {w : Half} {u : State} (hfetch : t.fetchHalf a = .ok (w, u)) : Kept s u := by
  obtain ⟨l, c, rfl⟩ := State.fetchHalf_ok hfetch
  exact h.of_same rfl rfl rfl fun p => by cases p <;> rfl

theorem Kept.loadInto (rb : Reg) (wa : WAddr) {adv : State → State} (hadv : ∀ u, Kept s u → Kept s (adv u)) :
    Kept s (t.loadInto rb wa adv) := by
  unfold State.loadInto
  split
  · exact h.dataFault _ _
  · exact hadv _ ((h.loadWord ‹_›).wr _ _)

theorem Kept.storeFrom (wa : WAddr) (v : Word) {adv : State → State} (hadv : ∀ u, Kept s u → Kept s (adv u)) :
    Kept s (t.storeFrom wa v adv) := by
  unfold State.storeFrom
  split
  · exact h.dataFault _ _
  · exact hadv _ (h.storeWord ‹_›)

theorem Kept.setSems (cn : Bool) (v : BitVec 8) : Kept s (t.setSems cn v) := by
  unfold State.setSems
  split <;> exact h.of_same rfl rfl rfl fun p => by cases p <;> rfl

theorem Kept.endDirect (cn : Bool) (disp : Nat) (b : Bool) : Kept s (t.endDirect cn disp b) := by
  unfold State.endDirect
  refine Kept.advance ?_
  split
  · exact h.setSems _ _
  · exact h

theorem Kept.freeze (cn : Bool) (disp : Nat) (b : Bool) : Kept s (t.freeze cn disp b) :=
  (h.modCpu fun hu => hu.of_frame rfl rfl rfl rfl (.inl rfl)).stay

/-! ### Cache instructions -/

theorem Kept.cacheOp (a : WAddr) (k : AccessKind) {op : State → PAddr → PageDesc → State}
    (hop : ∀ u pa d, Kept s u → Kept s (op u pa d)) : Kept s (t.cacheOp a k op) := by
  obtain ⟨f, heq⟩ | heq | heq | ⟨pa, d, heq⟩ := t.cacheOp_cases a k op <;> rw [heq]
  · exact h.dataFault _ _
  · exact h.advance
  · exact (h.fillTlb _).advance
  · exact (hop _ _ _ (h.fillTlb _)).advance

/-- A change of memory and the data cache. -/
theorem Kept.withCache {m : Memory} {c : Vector CacheSet 16}
    (hcache : t.CacheWf → ({ t with mem := m, dcache := c } : State).CacheWf) :
    Kept s { t with mem := m, dcache := c } :=
  h.of_cache rfl hcache rfl fun p => by cases p <;> rfl

end

end Sys2Proof.Machine
end

section
/-! PROOFS. Caches and marks stay well formed (44_cache_control.md R300, 45_control.md R322, R332,
70_reset_and_hazards.md R398): the operations of the cache instructions, the transfers of a run, each instruction,
each way through a step. -/

namespace Sys2Proof.Machine

/-! ### The operations of the cache instructions (44_cache_control.md R290 to R299) -/

/-- FDC, IDC, VDC, CDC and PDC change memory and the data cache only. -/
theorem State.flushLine_eq (s : State) (pa : PAddr) : ∃ m c, s.flushLine pa = { s with mem := m, dcache := c } := by
  unfold flushLine
  dsimp only
  split
  · exact ⟨s.mem, s.dcache, rfl⟩
  · exact ⟨_, _, rfl⟩

theorem State.invalidateLine_eq (s : State) (pa : PAddr) :
    ∃ m c, s.invalidateLine pa = { s with mem := m, dcache := c } := by
  unfold invalidateLine
  dsimp only
  split
  · exact ⟨s.mem, s.dcache, rfl⟩
  · exact ⟨_, _, rfl⟩

theorem State.validateLine_eq (s : State) (pa : PAddr) : ∃ c, s.validateLine pa = { s with dcache := c } := by
  unfold validateLine
  dsimp only
  split
  · exact ⟨s.dcache, rfl⟩
  · split
    · exact ⟨_, rfl⟩
    · exact ⟨s.dcache, rfl⟩

theorem State.prefetchData_eq (s : State) (pa : PAddr) (d : PageDesc) :
    ∃ m c, s.prefetchData pa d = { s with mem := m, dcache := c } := by
  unfold prefetchData
  split
  · exact ⟨s.mem, s.dcache, rfl⟩
  · exact ⟨_, _, rfl⟩

section
variable {s t : State} (h : Kept s t)
include h

theorem Kept.flushLine (pa : PAddr) : Kept s (t.flushLine pa) := by
  obtain ⟨m, c, heq⟩ := t.flushLine_eq pa
  rw [heq]
  exact h.withCache (heq ▸ fun hc => hc.flushLine pa)

theorem Kept.invalidateLine (pa : PAddr) : Kept s (t.invalidateLine pa) := by
  obtain ⟨m, c, heq⟩ := t.invalidateLine_eq pa
  rw [heq]
  exact h.withCache (heq ▸ fun hc => hc.invalidateLine pa)

theorem Kept.updateLine (pa : PAddr) : Kept s (t.updateLine pa) := by
  obtain ⟨c, heq⟩ := t.updateLine_eq pa
  rw [heq]
  exact h.withCache (m := t.mem) (heq ▸ fun hc => hc.updateLine pa)

theorem Kept.validateLine (pa : PAddr) : Kept s (t.validateLine pa) := by
  obtain ⟨c, heq⟩ := t.validateLine_eq pa
  rw [heq]
  exact h.withCache (m := t.mem) (heq ▸ fun hc => hc.validateLine pa)

theorem Kept.createLine (pa : PAddr) (d : PageDesc) : Kept s (t.createLine pa d) := by
  have heq := t.createLine_eq pa d
  rw [heq]
  exact h.withCache (heq ▸ fun hc => hc.createLine pa d)

theorem Kept.prefetchData (pa : PAddr) (d : PageDesc) : Kept s (t.prefetchData pa d) := by
  obtain ⟨m, c, heq⟩ := t.prefetchData_eq pa d
  rw [heq]
  exact h.withCache (heq ▸ fun hc => hc.prefetchData pa d)

theorem Kept.noteWritten (pa : PAddr) : Kept s (t.noteWritten pa) :=
  h.of_stored rfl rfl (fun hs => State.noteWritten_storedWf hs pa) fun p => by cases p <;> rfl

theorem Kept.dropFetch (pa : PAddr) : Kept s (t.dropFetch pa) :=
  h.of_stored rfl rfl (fun hs => State.dropFetch_storedWf hs pa) fun p => by cases p <;> rfl

theorem Kept.dropAllFetch : Kept s t.dropAllFetch :=
  h.of_stored rfl rfl State.dropAllFetch_storedWf fun p => by cases p <;> rfl

theorem Kept.prefetchInst (pa : PAddr) : Kept s (t.prefetchInst pa) := by
  unfold State.prefetchInst
  dsimp only
  split
  · exact h
  · exact h.of_same rfl rfl rfl fun p => by cases p <;> rfl

/-! ### The transfers of a run (40_load_store_move.md R165, R175) -/

theorem Kept.freeRun (k : Nat) : Kept s (t.freeRun k) := by
  induction k generalizing t with
  | zero => exact h
  | succ k ih => exact ih (h.wr _ _)

theorem Kept.freeOverlap (x : Transfer) : Kept s (t.freeOverlap x) := by
  unfold State.freeOverlap
  split
  · exact h.freeRun _
  · exact h

theorem Kept.faultCount (k : Nat) : Kept s (t.faultCount k) := h.withRCnt _

theorem Kept.faultAddress (ra : Reg) (a : Word) (n k : Nat) : Kept s (t.faultAddress ra a n k) := by
  unfold State.faultAddress
  split
  · exact h.wr _ _
  · exact h

theorem Kept.endLoads (x : Transfer) : Kept s (t.endLoads x) := (((h.wr _ _).freeOverlap x).withRCnt _).advance

/-- More transfers are to come of a PU that is not halted. -/
theorem Kept.runOn {x : Transfer} (hmore : 1 < x.next.val)
    (hx : (∀ p, (s.pu p).Sound) → t.cpu.flagW = false ∧ x.next ≤ x.count) : Kept s (t.runOn x) := by
  refine Kept.stay (h.setPu_of fun hs hu => ?_)
  obtain ⟨hW, hcount⟩ := hx hs
  refine hu.withRun hW ?_
  rintro _ ⟨⟩
  have hsub : (regOf (x.next.val - 1)).val = x.next.val - 1 := Nat.mod_eq_of_lt (by omega)
  have hcount : x.next.val ≤ x.count.val := hcount
  refine ⟨?_, Fin.le_def.mpr ?_⟩ <;> dsimp only <;> omega

end

theorem State.cpu_of_loadWord {s t : State} {wa : WAddr} {v : Word} (h : s.loadWord wa = .ok (v, t)) :
    t.cpu = s.cpu := by
  obtain ⟨pa, d, l, c, -, -, rfl⟩ | ⟨-, -, l, rfl⟩ := loadWord_ok h <;> rfl

theorem State.cpu_of_storeWord {s t : State} {wa : WAddr} {v : Word} (h : s.storeWord wa v = .ok t) :
    t.cpu = s.cpu := by
  obtain ⟨pa, d, l, c, -, rfl⟩ | ⟨-, l, rfl⟩ := storeWord_ok h <;> rfl

theorem PU.withRCnt_flagW (u : PU) (k : BitVec 4) : (u.withRCnt k).flagW = u.flagW := u.withRCnt_getLsbD k (by decide)

section
variable {s : State} {x : Transfer} (hx : (∀ p, (s.pu p).Sound) → s.cpu.flagW = false ∧ x.next ≤ x.count)
include hx

theorem kept_loadTransfer : Kept s (s.loadTransfer x) := by
  have hcounted : Kept s (s.atCount x) := (Kept.refl s).withRCnt _
  unfold State.loadTransfer
  dsimp only
  split
  · exact (((hcounted.faultCount _).faultAddress ..).freeOverlap x).dataFault _ _
  · rename_i v t hload
    have hloaded : Kept s (t.wr x.next v) := (hcounted.loadWord hload).wr _ _
    split
    · exact hloaded.endLoads x
    · refine hloaded.runOn (by omega) fun hs => ⟨?_, (hx hs).2⟩
      rw [State.wr_cpu, State.cpu_of_loadWord hload, State.modCpu_cpu, PU.flagW, PU.writeDest_sscr]
      exact (s.cpu.withRCnt_flagW _).trans (hx hs).1

theorem kept_storeTransfer : Kept s (s.storeTransfer x) := by
  have hcounted : Kept s ((s.wr x.addr x.storeAddress).atCount x) := ((Kept.refl s).wr _ _).withRCnt _
  unfold State.storeTransfer
  dsimp only
  split
  · exact ((hcounted.freeOverlap x).faultCount _).dataFault _ _
  · rename_i t hstore
    have hstored : Kept s t := hcounted.storeWord hstore
    split
    · exact (hstored.freeOverlap x).advance
    · refine hstored.runOn (by omega) fun hs => ⟨?_, (hx hs).2⟩
      rw [State.cpu_of_storeWord hstore, State.modCpu_cpu, PU.withRCnt_flagW, State.wr_cpu, PU.flagW, PU.writeDest_sscr]
      exact (hx hs).1

theorem kept_transferOne : Kept s (s.transferOne x) := by
  unfold State.transferOne
  split
  · exact kept_loadTransfer hx
  · exact kept_storeTransfer hx

end

/-- A run goes on: its PU is not halted, and the register it moves next is one of its own. -/
theorem kept_continueRun (s : State) : Kept s s.continueRun := by
  unfold State.continueRun
  split
  · rename_i x hrun
    refine kept_transferOne fun hs => ?_
    obtain ⟨hrunning, hnext⟩ := (hs s.turn).runs
    exact ⟨hrunning (Option.isSome_iff_exists.mpr ⟨_, hrun⟩), (hnext x hrun).2⟩
  all_goals exact Kept.refl s

/-! ### Results of arithmetic and of field instructions -/

section
variable {s t : State} (h : Kept s t)
include h

theorem Kept.commitAdd (rb : Reg) (r : Word × Flags) : Kept s (t.commitAdd rb r) := by
  have hstored : Kept s ((t.wr rb r.1).setFlags r.2) := (h.wr _ _).setFlags _
  unfold State.commitAdd
  dsimp only
  split
  · split
    · exact hstored.raise _
    · exact h.raise _
  · exact hstored.advance

theorem Kept.commitPartial (rb : Reg) (r : Word × Flags) : Kept s (t.commitPartial rb r) :=
  ((h.wr _ _).setFlags _).advance

theorem Kept.commitNZ (r : Reg) (v : Word) : Kept s (t.commitNZ r v) := ((h.wr _ _).setNZ _ _).advance

theorem Kept.commitField (r : Reg) (f : Fin 32 → Fin 32 → Word) : Kept s (t.commitField r f) := by
  unfold State.commitField
  split
  · exact h.commitNZ _ _
  · exact ((h.wr _ _).setNZ _ _).advance

theorem Kept.divide (rb : Reg) (q r : Word) : Kept s (t.divide rb q r) := by
  refine (h.modCpu fun hu => (PU.Sound.issue hu (.inr ?_) (by simp)).putDest _ _ |>.putDest _ _).advance
  unfold State.divLatency
  split <;> decide

theorem Kept.divideTrap : Kept s t.divideTrap :=
  (h.modCpu fun hu => hu.issue (.inl rfl) List.nodup_nil).raise _

theorem Kept.writeSpecial {v : State} {sp : SReg} {x : Word} (hwrite : t.writeSpecial sp x = some v) : Kept s v := by
  cases sp <;> cases hwrite
  case remainder | product => exact h.modCpu fun hu => (hu.writeDest _ _).withBit true (by decide) (by decide)
  case mask | statusSave | trapArgument | pcSaveQueue => exact h.modCpu fun hu => hu.of_frame rfl rfl rfl rfl (.inl rfl)
  case window =>
    split
    · exact (h.setSems _ _).of_same rfl rfl rfl fun p => State.pu_with_window1 _ _ p
    · exact h.setSems _ _
  all_goals exact h.of_same rfl rfl rfl fun p => by cases p <;> rfl

end

/-! ### Instructions -/

/-- An instruction, begun by a PU that is not halted and within no other, keeps what is well formed; in a pair of RtIs
it is the second. -/
theorem exec_kept {i : Instr} {s t : State} (hW : s.cpu.flagW = false) (hrun : s.cpu.run = none)
    (hpair : s.pairBroken i = false) (h : exec i s = .next t) : Kept s t := by
  have hs := Kept.refl s
  cases i with
  | cdc ra =>
    cases h
    exact hs.cacheOp _ _ fun u pa d hu => hu.createLine pa d
  | fdc ra =>
    cases h
    exact hs.cacheOp _ _ fun u pa _ hu => (hu.flushLine pa).noteWritten pa
  | idc ra =>
    cases h
    exact hs.cacheOp _ _ fun u pa _ hu => hu.invalidateLine pa
  | udc ra =>
    cases h
    exact hs.cacheOp _ _ fun u pa _ hu => (hu.updateLine pa).noteWritten pa
  | vdc ra =>
    cases h
    exact hs.cacheOp _ _ fun u pa _ hu => hu.validateLine pa
  | pdc ra =>
    cases h
    exact hs.cacheOp _ _ fun u pa d hu => hu.prefetchData pa d
  | iic ra =>
    cases h
    exact hs.cacheOp _ _ fun u pa _ hu => hu.dropFetch pa
  | picA ra | picR disp =>
    cases h
    exact hs.cacheOp _ _ fun u pa _ hu => hu.prefetchInst pa
  | ldWB rb base disp | ldWR rb ra =>
    cases h
    exact hs.loadInto _ _ fun _ hu => hu.advance
  | stWB rb base disp | stWR rb base =>
    cases h
    exact hs.storeFrom _ _ fun _ hu => hu.advance
  | ldWD rb disp =>
    rw [exec_ldWD] at h
    split at h <;> cases h
    · exact hs.freeze _ _ _
    · exact hs.loadInto _ _ fun _ hu => hu.endDirect _ _ _
  | stWD rb disp =>
    rw [exec_stWD] at h
    split at h <;> cases h
    · exact hs.freeze _ _ _
    · exact hs.storeFrom _ _ fun _ hu => hu.endDirect _ _ _
  | ldWE rb ra disp =>
    rw [exec_ldWE] at h
    split at h <;> cases h
    exact hs.loadInto _ _ fun _ hu => hu.advanceExtended
  | stWE rb base disp =>
    rw [exec_stWE] at h
    split at h <;> cases h
    exact hs.storeFrom _ _ fun _ hu => hu.advanceExtended
  | ldB d p =>
    have hstepped := hs.wr p (nextBytePtr (s.rd p))
    cases hload : (s.wr p (nextBytePtr (s.rd p))).loadByte (byteOfPointer (s.rd p)) with
    | error f =>
      rw [exec_ldB_of_fault hload] at h
      cases h
      exact hstepped.dataFault _ _
    | ok r =>
      rw [exec_ldB_of_ok hload] at h
      cases h
      exact ((hstepped.loadByte hload).wr _ _).advance
  | stB d p =>
    have hstepped := hs.wr p (nextBytePtr (s.rd p))
    cases hstore : (s.wr p (nextBytePtr (s.rd p))).storeByte (byteOfPointer (s.rd p))
        ((s.rd d).extractLsb' 0 8) with
    | error f =>
      rw [exec_stB_of_fault hstore] at h
      cases h
      exact hstepped.dataFault _ _
    | ok u =>
      rw [exec_stB_of_ok hstore] at h
      cases h
      exact (hstepped.storeByte hstore).advance
  | ldM rb ra =>
    rw [exec_ldM] at h
    split at h <;> cases h
    exact kept_transferOne fun _ => ⟨hW, Nat.le_refl _⟩
  | stM rb ra =>
    rw [exec_stM] at h
    split at h <;> cases h
    exact kept_transferOne fun _ => ⟨hW, Nat.le_refl _⟩
  | div rb ra =>
    have hcleared : Kept s (s.modCpu (fun u => u.withBit bitF false)) := hs.withBit false (by decide) (by decide)
    simp only [exec, execDiv] at h
    split at h
    · cases h
      split
      · exact hcleared.divideTrap
      · exact hcleared.divide _ _ _
    · split at h <;> cases h
      · split
        · exact hcleared.divideTrap
        · exact hcleared.divide _ _ _
      · exact hcleared.divide _ _ _
  | mul rb ra =>
    cases h
    exact (hs.modCpu fun hu => ((PU.Sound.issue hu (.inr (by decide)) (by simp)).putDest _ _ |>.putDest _ _).withBit
      false (by decide) (by decide)).advance
  | mulP rb ra =>
    cases h
    exact ((hs.wr _ _).withBit false (by decide) (by decide)).advance
  | movTS rb sp =>
    simp only [exec, execMovTS] at h
    split at h
    · cases h
      exact hs.raiseIllegal
    · split at h <;> cases h
      exact (hs.writeSpecial ‹_›).advance
  | rtI =>
    simp only [exec, execRtI] at h
    repeat' split at h
    all_goals cases h
    · exact hs.raiseIllegal
    · exact (hs.modCpu fun hu => hu.returnSecond hW).withEvent _
    · exact (hs.modCpu fun hu => hu.returnFirst (by simpa using ‹¬s.cpu.flagT = true›)
        (by simpa using ‹¬s.cpu.flagU = true›)).withEvent _
  | clrM bit | setM bit =>
    have hrti : s.cpu.rti1 = false := by simpa [State.pairBroken, Instr.form] using hpair
    simp only [exec, execClrM, execSetM] at h
    split at h <;> cases h
    · exact hs.raiseIllegal
    · exact (hs.modCpu fun hu => hu.withModeBit hrti _ bit.isLt).advance
  | trap num =>
    cases h
    exact (hs.raiseAt _ _).withEvent _
  | wait m =>
    cases h
    exact (hs.modCpu fun hu => hu.wait m hrun).releaseWaits.stay
  | tstF ra =>
    simp only [exec, execTstF] at h
    split at h <;> cases h <;> exact (hs.setNZ _ _).advance
  | tstM bit =>
    simp only [exec, execTstM] at h
    split at h <;> cases h
    · exact hs.raiseIllegal
    · exact (hs.setCarry _).advance
  | bcc cc disp =>
    simp only [exec, execBcc] at h
    split at h <;> cases h
    · exact hs.takeBranch _
    · exact hs.advanceBranch
  | skcc cc =>
    simp only [exec, execSkcc] at h
    split at h <;> cases h
    · exact (hs.withBit true (by decide) (by decide)).advanceBranch
    · exact hs.advanceBranch
  | shL rb amt | shR ra amt =>
    simp only [exec, execShL, execShR] at h
    split at h <;> cases h <;> exact ((hs.wr _ _).setNZkeepV _ _).advance
  | res m =>
    simp only [exec, execRes] at h
    split at h <;> cases h
    · exact hs.raiseIllegal
    · refine (hs.forPus ?_).advance
      exact fun _ hu => hu.of_frame rfl rfl rfl rfl (.inl rfl)
  | int m =>
    simp only [exec, execInt] at h
    repeat' split at h
    all_goals cases h
    · exact hs.raiseIllegal
    · exact hs.stay
    · refine (hs.forPus ?_).advance
      exact fun _ hu => hu.of_frame rfl rfl rfl rfl (.inl rfl)
  | rsm m =>
    simp only [exec, execRsm] at h
    split at h <;> cases h
    · exact hs.stay
    · exact (hs.forPus fun _ hu => hu.resume).advance
  | send rb m =>
    simp only [exec, execSend] at h
    split at h <;> cases h
    · exact hs.stay
    · exact (hs.forPus fun _ hu => hu.writeDest _ _).advance
  | strt rb m =>
    simp only [exec, execStrt] at h
    repeat' split at h
    all_goals cases h
    · exact hs.stay
    · exact (hs.forPus fun _ hu => hu.start _).advance
  | iicA =>
    simp only [exec, execIicA] at h
    split at h <;> cases h
    · exact hs.raiseIllegal
    · exact hs.dropAllFetch.advance
  | itlb =>
    simp only [exec, execItlb] at h
    split at h <;> cases h
    · exact hs.raiseIllegal
    · exact (hs.withTlb []).advance
  | rdtx rb ra | movFS rb sp =>
    simp only [exec, execRdtx, execMovFS] at h
    split at h <;> cases h
    · exact hs.raiseIllegal
    · exact (hs.wr _ _).advance
  | mskI pos len | mskR ra len =>
    cases h
    exact (hs.modCpu fun hu => hu.of_frame rfl rfl rfl rfl (.inl rfl)).advance
  | jmpR disp | jmpA ra =>
    cases h
    exact hs.takeBranch _
  | jmpL ra =>
    cases h
    exact (hs.wr _ _).takeBranch _
  | clz rb ra =>
    cases h
    exact ((hs.wr _ _).setNZ _ _).advance
  | cmp rb ra | cmpI rb imm | cmpP rb ra =>
    cases h
    exact (hs.setFlags _).advance
  | adPC ra | ld rb imm | ldCP ra | lcc rb cc | mov rb ra | clrF ra | setF ra =>
    cases h
    exact (hs.wr _ _).advance
  | add rb ra | addI rb imm | addC rb ra | sub rb ra | subI rb imm | subC rb ra | neg rb ra =>
    cases h
    exact hs.commitAdd _ _
  | addP rb ra | adCP rb ra | subP rb ra | sbCP rb ra =>
    cases h
    exact hs.commitPartial _ _
  | dep rb ra | ins rb ra | extU rb ra | extS rb ra | dSh rb ra =>
    cases h
    exact hs.commitField _ _
  | and rb ra | andC rb ra | xOr rb ra | not rb ra =>
    cases h
    exact hs.commitNZ _ _
  | or rb ra =>
    cases h
    exact ((hs.wr _ _).setNZkeepV _ _).advance

/-! ### Steps (10_state.md R34) -/

/-- A step, with what it says of the instruction it performs: it begins where nothing takes its place, and is the
second RtI of a pair or in none. -/
theorem step_next_begins {s t : State} (h : step s = .next t) :
    ∃ v, t = v.finishStep s.beginStep.cpu.flagU ∧ (s.beginStep.preempt = some (.next v) ∨
      s.beginStep.preempt = none ∧ (s.beginStep.fetchDecode = .error (.next v) ∨
        ∃ i u, s.beginStep.fetchDecode = .ok (i, u) ∧ u.pairBroken i = false ∧ exec i u = .next v)) := by
  unfold step at h
  dsimp only at h
  split at h
  · obtain ⟨v, rfl, rfl⟩ := ended_next h
    exact ⟨v, rfl, .inl ‹_›⟩
  · split at h
    · obtain ⟨v, rfl, rfl⟩ := ended_next h
      exact ⟨v, rfl, .inr ⟨‹_›, .inl ‹_›⟩⟩
    · split at h
      · cases h
      · obtain ⟨v, hexec, rfl⟩ := ended_next h
        exact ⟨v, rfl, .inr ⟨‹_›, .inr ⟨_, _, ‹_›, eq_false_of_ne_true ‹¬_ = true›, hexec⟩⟩⟩

/-- Nothing takes an instruction's place on a PU that is not halted nor in a run. -/
theorem State.running_of_preempt {s : State} (h : s.preempt = none) : s.cpu.flagW = false ∧ s.moving = false := by
  unfold preempt at h
  repeat' split at h
  all_goals simp_all

theorem Kept.withRest {s t : State} (h : Kept s t) {r : Rest} (hW : t.cpu.flagW = false) (hr : ∀ x, r ≠ .move x) :
    Kept s (t.withRest (some r)) :=
  h.modCpu fun hu => hu.withRun hW fun x hx => absurd hx (hr x)

theorem kept_preempt {s v : State} (h : s.preempt = some (.next v)) : Kept s v := by
  obtain ⟨n, rfl⟩ | rfl | rfl | rfl | rfl := State.preempt_next h
  · exact (Kept.refl s).takeInterrupt n
  · exact kept_continueRun s
  · exact (Kept.refl s).haltedSlot
  · exact (Kept.refl s).skipSlot
  · exact (Kept.refl s).stay

/-- What stands in the place of an instruction at its fetch: a trap, or the wait for the rest of the instruction. -/
theorem kept_fetchDecode_error {s v : State} (hW : s.cpu.flagW = false) (h : s.fetchDecode = .error (.next v)) :
    Kept s v := by
  have hs := Kept.refl s
  have hwait : ∀ {a w u r}, s.fetchHalf a = .ok (w, u) → (∀ x, r ≠ .move x) →
      Kept s (u.withRest (some r)).stay := fun hhalf hr =>
    ((hs.fetchHalf hhalf).withRest (by rwa [State.cpu_of_fetchHalf hhalf]) hr).stay
  unfold State.fetchDecode at h
  split at h
  · have hsecond := Except.error.inj h
    unfold State.fetchSecond at hsecond
    dsimp only at hsecond
    split at hsecond
    · cases hsecond
      exact hs.fetchFault _ _ _
    · split at hsecond
      · cases hsecond
        exact hwait ‹_› (by simp)
      · rw [State.illegalHalf_next hsecond]
        exact (hs.fetchHalf ‹_›).raiseIllegal
  · cases h
  all_goals
    unfold State.fetchFirst at h
    split at h
    · cases h
      exact hs.fetchFault _ _ _
    · split at h
      · cases h
      · rw [State.illegalHalf_next (Except.error.inj h)]
        exact (hs.fetchHalf ‹_›).raiseIllegal
      · rw [(State.holdFirst_next _ _ _ (Except.error.inj h)).1]
        exact hwait ‹_› (by simp)

/-- An instruction that a step performs begins with nothing left of another. -/
theorem kept_fetchDecode_ok {s u : State} {i : Instr} (hmove : s.moving = false) (h : s.fetchDecode = .ok (i, u)) :
    Kept s u ∧ u.cpu.flagW = s.cpu.flagW ∧ u.cpu.run = none := by
  cases hrun : s.cpu.run with
  | none =>
    obtain ⟨hheld, -⟩ | ⟨w, rest, hhalf, -⟩ := State.fetchDecode_ok _ _ _ h
    · cases hrun.symm.trans hheld
    · rw [State.cpu_of_fetchHalf hhalf]
      exact ⟨(Kept.refl s).fetchHalf hhalf, rfl, hrun⟩
  | some r =>
    cases r with
    | second w =>
      rw [State.fetchDecode_of_second hrun] at h
      cases h
    | access i =>
      rw [State.fetchDecode_of_access hrun] at h
      cases h
      refine ⟨(Kept.refl s).modCpu fun hu => hu.of_frame rfl rfl rfl rfl (.inr rfl), ?_⟩
      rw [State.withRest_cpu]
      exact ⟨rfl, rfl⟩
    | move x => simp [State.moving, hrun] at hmove

theorem step_kept {s t : State} (h : step s = .next t) : Kept s t := by
  obtain ⟨v, rfl, hv⟩ := step_next_begins h
  refine Kept.finishStep ((Kept.refl s).beginStep.trans ?_) _
  obtain hpre | ⟨hpre, hbegins⟩ := hv
  · exact kept_preempt hpre
  · obtain ⟨hW, hmove⟩ := State.running_of_preempt hpre
    obtain herror | ⟨i, u, hdecoded, hpair, hexec⟩ := hbegins
    · exact kept_fetchDecode_error hW herror
    · obtain ⟨hfetched, hsame, hrun⟩ := kept_fetchDecode_ok hmove hdecoded
      exact hfetched.trans (exec_kept (hsame.trans hW) hrun hpair hexec)

/-- Settles O13: what every step keeps, and no ended Wait left uncounted at the end of one. -/
theorem cachesAndMarksStayWellFormed : Obligations.CachesAndMarksStayWellFormed := by
  intro s t h
  have hkept := step_kept h
  refine ⟨hkept.params, hkept.cache, hkept.stored, fun hs p => ?_⟩
  obtain ⟨hreturn, hwait, hflight, hrun⟩ := hkept.pus (fun q => (hs q).sound) p
  refine ⟨hreturn, hwait, hflight, hrun, ?_⟩
  obtain ⟨v, rfl, -⟩ := step_next h
  rw [State.finishStep_pu]
  rfl

end Sys2Proof.Machine
end

section
/-! PROOFS. Cache instructions whose address the page's protection or the line's tag denies (44_cache_control.md R301,
20_memory.md R101, 60_exceptions.md R357). -/

namespace Sys2Proof.Machine

/-- The instruction does an operation on the cached line of one word address, `wa`, checked as an access of kind `k`
(R301). -/
def CacheAccess (i : Instr) (s : State) (wa : WAddr) (k : AccessKind) : Prop :=
  ∃ op, exec i s = .next (s.cacheOp wa k op)

theorem wordOfHalf_of_toNat {h : HAddr} {wa : WAddr} (hwa : wa.toNat = h.toNat / 2) : wa = wordOfHalf h := by
  apply BitVec.eq_of_toNat_eq
  rw [hwa, wordOfHalf, BitVec.toNat_ushiftRight, Nat.shiftRight_eq_div_pow, pow_one]

theorem CacheAccess.faultsWith {i : Instr} {s : State} {wa : WAddr} {k : AccessKind} (h : CacheAccess i s wa k)
    (hdenied : s.translate (byteOfWord wa) k s.cpu.flagU = .error .accessFault) :
    FaultsWith i s 0x15 (BitVec.ofNat 32 wa.toNat) [] := by
  obtain ⟨op, hexec⟩ := h
  refine faultsWith_of_dataFault (f := .accessFault) ?_
  rw [hexec, State.cacheOp, hdenied, zeroExtend30_eq]

/-- Settles O59: the translation of the address is denied, and `cacheOp` then does nothing but trap. -/
theorem cacheInstructionFaults : Obligations.CacheInstructionFaults := by
  intro s i wa k d hform hpage hdenied
  refine CacheAccess.faultsWith (k := k) ?_ (State.translate_of_denied hpage hdenied)
  obtain ⟨rfl, ra, rfl, rfl | rfl | rfl⟩ | ⟨rfl, ra, rfl, rfl | rfl | rfl | rfl | rfl⟩ | ⟨rfl, disp, rfl, hwa⟩ :=
    hform
  case inr.inr =>
    rw [wordOfHalf_of_toNat hwa]
    exact ⟨_, rfl⟩
  all_goals exact ⟨_, rfl⟩

end Sys2Proof.Machine
end

section
/-! SUPPORT. What an operation on one line of the data cache leaves of the others (44_cache_control.md R300): where the
lines are found, and what Main Memory holds of them. -/

namespace Sys2Proof.Machine

/-! ### The line of an address -/

theorem State.lineAt_of_find {s : State} {pa : PAddr} {w : Fin 4}
    (h : (s.cacheSet (setIndex pa)).findWay (s.lineBase pa) = some w) :
    s.lineAt pa = some ((s.cacheSet (setIndex pa)).way w) := by
  simp [lineAt, h]

theorem State.lineAt_eq_none_iff {s : State} {pa : PAddr} :
    s.lineAt pa = none ↔ (s.cacheSet (setIndex pa)).findWay (s.lineBase pa) = none := by
  unfold lineAt
  split <;> simp_all

theorem State.find_of_lineAt {s : State} {pa : PAddr} {e : CacheLine} (h : s.lineAt pa = some e) :
    ∃ w, (s.cacheSet (setIndex pa)).findWay (s.lineBase pa) = some w ∧ (s.cacheSet (setIndex pa)).way w = e := by
  unfold lineAt at h
  split at h
  · cases h
  · exact ⟨_, ‹_›, Option.some.inj h⟩

theorem State.storedLine_of_find {s : State} {pa : PAddr} {w : Fin 4}
    (h : (s.cacheSet (setIndex pa)).findWay (s.lineBase pa) = some w) :
    s.storedLine pa = ((s.cacheSet (setIndex pa)).way w).backing.getD (s.seenLine pa) := by
  unfold storedLine
  rw [mainLine_of_find (by rw [setIndex_lineBase, h]), setIndex_lineBase]
  rfl

theorem State.storedLine_of_none {s : State} {pa : PAddr}
    (h : (s.cacheSet (setIndex pa)).findWay (s.lineBase pa) = none) : s.storedLine pa = s.seenLine pa :=
  mainLine_of_none (by rw [setIndex_lineBase, h])

theorem State.lineBytes_congr {s t : State} (h : t.params = s.params) : t.lineBytes = s.lineBytes := by
  simp only [lineBytes, h]

/-! ### States with the same caches and memory -/

/-- Memory, the data cache and the chip's parameters are the same. -/
structure SameLines (s t : State) : Prop where
  params : t.params = s.params
  dcache : t.dcache = s.dcache
  mem : t.mem = s.mem

theorem State.advance_sameLines (s : State) : SameLines s s.advance :=
  ⟨advance_params s, advance_dcache s, advance_mem s⟩

/-! ### Entries of other lines -/

/-- The entry holds the line at `b`. -/
def CacheLine.Holds (e : CacheLine) (b : PAddr) : Prop := e.valid = true ∧ e.base = b

/-- Where no entry that changes holds a line before or after, the line is found where it was. -/
theorem CacheSet.findWay_congr {c c' : CacheSet} {b : PAddr}
    (h : ∀ v, c'.way v = c.way v ∨ ¬(c.way v).Holds b ∧ ¬(c'.way v).Holds b) : c'.findWay b = c.findWay b := by
  refine List.find?_congr fun v _ => ?_
  obtain hsame | ⟨hold, hnew⟩ := h v
  · rw [hsame]
  · unfold CacheLine.Holds at hold hnew
    rw [Bool.eq_iff_iff]
    simp [hold, hnew]

theorem State.mainLine_congr {s t : State} {b : PAddr} (hparams : t.params = s.params)
    (hways : ∀ v, (t.cacheSet (setIndex b)).way v = (s.cacheSet (setIndex b)).way v ∨
      ¬((s.cacheSet (setIndex b)).way v).Holds b ∧ ¬((t.cacheSet (setIndex b)).way v).Holds b)
    (hmem : ∀ k < s.lineBytes, readByte t.mem (b.toNat + k) = readByte s.mem (b.toNat + k)) :
    t.mainLine b = s.mainLine b := by
  have hbytes : readBytes t.mem b.toNat t.lineBytes = readBytes s.mem b.toNat s.lineBytes := by
    rw [lineBytes_congr hparams]
    exact readBytes_congr hmem
  have hfind := CacheSet.findWay_congr hways
  cases hold : (s.cacheSet (setIndex b)).findWay b with
  | none => rw [mainLine_of_none hold, mainLine_of_none (hfind.trans hold), hbytes]
  | some v =>
    rw [mainLine_of_find hold, mainLine_of_find (hfind.trans hold), hbytes]
    obtain hsame | ⟨hnot, -⟩ := hways v
    · rw [hsame]
    · exact absurd (CacheSet.findWay_some hold) hnot

/-! ### Bytes of an entry's line -/

theorem writtenLine_getD {s : State} {e : CacheLine} {k : Nat} (hk : k < s.lineBytes) :
    (s.writtenLine e).getD k 0 =
      if e.unstored.getLsbD (k / 4) then (s.mainLine e.base).getD k 0 else readByte s.mem (e.base.toNat + k) := by
  simp [State.writtenLine, hk]

/-- With no word unstored, a write-back puts what loads see into Main Memory. -/
theorem State.writtenLine_of_stored (s : State) {e : CacheLine} (h : e.unstored = 0) :
    s.writtenLine e = readBytes s.mem e.base.toNat s.lineBytes := by
  simp [writtenLine, h, readBytes]

theorem readByte_restoreLine_outside {m : Memory} (hm : memoryWf m) {base : PAddr} {backing : Option (List Byte)}
    {n a : Nat} (hlen : ∀ bytes, backing = some bytes → bytes.length = n)
    (ha : ¬(base.toNat ≤ a ∧ a < base.toNat + n)) : readByte (restoreLine m base backing) a = readByte m a := by
  cases backing with
  | none => rfl
  | some bytes =>
    rw [restoreLine, readByte_writeBytes hm, if_neg]
    rwa [hlen bytes rfl]

theorem readBytes_writeBytes {m : Memory} (hm : memoryWf m) {a n : Nat} {bytes : List Byte} (h : bytes.length = n) :
    readBytes (writeBytes m a bytes) a n = bytes := by
  subst h
  refine List.ext_getElem (by simp) fun k hk hk' => ?_
  simp [readBytes, readByte_writeBytes hm, hk']

theorem readBytes_restoreLine {m : Memory} (hm : memoryWf m) {base : PAddr} {backing : Option (List Byte)} {n : Nat}
    (hlen : ∀ bytes, backing = some bytes → bytes.length = n) :
    readBytes (restoreLine m base backing) base.toNat n = backing.getD (readBytes m base.toNat n) := by
  cases backing with
  | none => rfl
  | some bytes => exact readBytes_writeBytes hm (hlen bytes rfl)

section
variable {s : State} (hm : memoryWf s.mem) (hc : s.CacheWf) {i : Fin 16} {w : Fin 4}
include hm hc

/-- Once an entry has left the cache, memory shows of its line what Main Memory has received, or what it held. -/
theorem readBytes_evictLine (hv : ((s.cacheSet i).way w).valid = true) :
    readBytes (evictLine s.mem ((s.cacheSet i).way w)) ((s.cacheSet i).way w).base.toNat s.lineBytes =
      if ((s.cacheSet i).way w).dirty = true then s.writtenLine ((s.cacheSet i).way w)
      else s.mainLine ((s.cacheSet i).way w).base := by
  obtain ⟨-, hlen, hkeeps⟩ := (hc i).2.1 w
  have hmain := State.mainLine_of_way hc hv
  split
  · rename_i hd
    obtain ⟨kept, hkept⟩ := Option.isSome_iff_exists.mp (hkeeps (.inl hd))
    refine List.map_congr_left fun k hk => ?_
    have hk : k < s.lineBytes := List.mem_range.mp hk
    rw [readByte_evictLine_dirty hm hv hd hkept (by rwa [hlen kept hkept]), hmain, hkept]
    rfl
  · rename_i hd
    rw [evictLine, if_pos hv, CacheLine.writtenBack_of_clean _ (eq_false_of_ne_true hd), readBytes_restoreLine hm hlen,
      hmain]

/-- Other lines keep their bytes when an entry leaves the cache. -/
theorem readByte_evictLine_other {b : PAddr} (hb : s.lineBase b = b) (hnot : ¬((s.cacheSet i).way w).Holds b)
    {k : Nat} (hk : k < s.lineBytes) :
    readByte (evictLine s.mem ((s.cacheSet i).way w)) (b.toNat + k) = readByte s.mem (b.toNat + k) := by
  obtain ⟨hline, hlen, -⟩ := (hc i).2.1 w
  by_cases hv : ((s.cacheSet i).way w).valid = true
  · refine readByte_evictLine_outside hm hlen ?_
    have hbase := (hline hv).1
    have hne : b ≠ s.lineBase ((s.cacheSet i).way w).base := fun h => hnot ⟨hv, (h.trans hbase).symm⟩
    have hout := State.not_inLine_of_ne hb hne hk
    unfold State.inLine at hout
    rwa [hbase] at hout
  · rw [evictLine, if_neg hv]

end

/-! ### Main Memory after one line has changed -/

section
variable {s t : State} {pa : PAddr} (hparams : t.params = s.params)
  (hsets : ∀ j, j ≠ setIndex pa → t.cacheSet j = s.cacheSet j)
include hparams hsets

/-- Where only entries of the line of `pa` change, and memory only in the line, Main Memory keeps the other lines. -/
theorem mainAfter_of_line
    (hways : ∀ v, (t.cacheSet (setIndex pa)).way v = (s.cacheSet (setIndex pa)).way v ∨
      ((s.cacheSet (setIndex pa)).way v).base = s.lineBase pa ∧
        (((t.cacheSet (setIndex pa)).way v).valid = true → ((t.cacheSet (setIndex pa)).way v).base = s.lineBase pa))
    (hmem : ∀ a, ¬s.inLine pa a → readByte t.mem a = readByte s.mem a) : MainAfter s t pa none := by
  intro b hb hne written
  refine ⟨fun e he => absurd he.1 (Option.some_ne_none e).symm, fun _ => ?_⟩
  refine State.mainLine_congr hparams (fun v => ?_) fun k hk => hmem _ (State.not_inLine_of_ne hb hne hk)
  by_cases hset : setIndex b = setIndex pa
  · rw [hset]
    refine (hways v).imp_right fun ⟨hold, hnew⟩ => ⟨fun h => ?_, fun h => ?_⟩
    · exact hne (h.2.symm.trans hold)
    · exact hne (h.2.symm.trans (hnew h.1))
  · exact .inl (by rw [hsets _ hset])

/-- An entry of the set takes the line of `pa`: of its old line Main Memory receives what it is due, and it keeps the
others. -/
theorem mainAfter_of_replaced (hm : memoryWf s.mem) (hc : s.CacheWf) {w : Fin 4}
    (hnew : ((t.cacheSet (setIndex pa)).way w).base = s.lineBase pa)
    (hways : ∀ v, v ≠ w → (t.cacheSet (setIndex pa)).way v = (s.cacheSet (setIndex pa)).way v ∨
      ((s.cacheSet (setIndex pa)).way v).base = s.lineBase pa ∧ ((t.cacheSet (setIndex pa)).way v).valid = false)
    (hmem : ∀ a, ¬s.inLine pa a →
      readByte t.mem a = readByte (evictLine s.mem ((s.cacheSet (setIndex pa)).way w)) a) :
    MainAfter s t pa (some ((s.cacheSet (setIndex pa)).way w)) := by
  intro b hb hne written
  have hbytes : ∀ k < s.lineBytes, readByte t.mem (b.toNat + k) =
      readByte (evictLine s.mem ((s.cacheSet (setIndex pa)).way w)) (b.toNat + k) :=
    fun k hk => hmem _ (State.not_inLine_of_ne hb hne hk)
  have hother : ∀ v, v ≠ w → (t.cacheSet (setIndex pa)).way v = (s.cacheSet (setIndex pa)).way v ∨
      ¬((s.cacheSet (setIndex pa)).way v).Holds b ∧ ¬((t.cacheSet (setIndex pa)).way v).Holds b := by
    refine fun v hv => (hways v hv).imp_right fun ⟨hbase, hinvalid⟩ => ⟨fun h => ?_, fun h => ?_⟩
    · exact hne (h.2.symm.trans hbase)
    · exact absurd (hinvalid.symm.trans h.1) Bool.false_ne_true
  have htaken : ¬((t.cacheSet (setIndex pa)).way w).Holds b := fun h => hne (h.2.symm.trans hnew)
  by_cases hholds : ((s.cacheSet (setIndex pa)).way w).Holds b
  · obtain ⟨hv, rfl⟩ := hholds
    have hset := (((hc (setIndex pa)).2.1 w).1 hv).2
    have hgone : (t.cacheSet (setIndex ((s.cacheSet (setIndex pa)).way w).base)).findWay
        ((s.cacheSet (setIndex pa)).way w).base = none := by
      rw [hset]
      refine CacheSet.findWay_eq_none fun v hvalid hbase => ?_
      by_cases hvw : v = w
      · rw [hvw] at hvalid hbase
        exact htaken ⟨hvalid, hbase⟩
      · obtain hsame | ⟨-, hnot⟩ := hother v hvw
        · rw [hsame] at hvalid hbase
          exact hvw ((hc (setIndex pa)).2.2 v w hvalid hv hbase)
        · exact hnot ⟨hvalid, hbase⟩
    have hmain : t.mainLine ((s.cacheSet (setIndex pa)).way w).base =
        if ((s.cacheSet (setIndex pa)).way w).dirty = true then s.writtenLine ((s.cacheSet (setIndex pa)).way w)
        else s.mainLine ((s.cacheSet (setIndex pa)).way w).base := by
      rw [State.mainLine_of_none hgone, State.lineBytes_congr hparams, readBytes_congr hbytes,
        readBytes_evictLine hm hc hv]
    refine ⟨fun e ⟨he, _, hd, _⟩ => ?_, fun hclean => ?_⟩
    · obtain rfl := Option.some.inj he
      rw [hmain, if_pos hd]
    · rw [hmain, if_neg fun hd => hclean ⟨_, rfl, hv, hd, rfl⟩]
  · refine ⟨fun e ⟨he, hv, _, hbase⟩ => ?_, fun _ => ?_⟩
    · obtain rfl := Option.some.inj he
      exact absurd ⟨hv, hbase⟩ hholds
    · refine State.mainLine_congr hparams (fun v => ?_) fun k hk =>
        (hbytes k hk).trans (readByte_evictLine_other hm hc hb hholds hk)
      by_cases hset : setIndex b = setIndex pa
      · rw [hset]
        by_cases hv : v = w
        · rw [hv]
          exact .inr ⟨hholds, htaken⟩
        · exact hother v hv
      · exact .inl (by rw [hsets _ hset])

end

end Sys2Proof.Machine
end

section
/-! PROOFS. Prefetches, and the instruction cache's invalidations (44_cache_control.md R293 to R297, L43), with the
records of stores that these end (20_memory.md R100, L8). -/

namespace Sys2Proof.Machine

/-! ### An allowed cache instruction -/

/-- A cache instruction on an allowed line does its operation, after translation, and goes on. -/
theorem completes_of_cacheOp {i : Instr} {s : State} {wa : WAddr} {k : AccessKind} {d : PageDesc} {ps : List Part}
    {op : State → PAddr → PageDesc → State} {post : State → Prop} (hexec : exec i s = .next (s.cacheOp wa k op))
    (hallow : s.Allows (byteOfWord wa) k d)
    (hframe : Unchanged s (op (s.fillTlb (byteOfWord wa)) (pageAddress d (byteOfWord wa)) d) ps)
    (hown : ∀ p ∈ [Part.counters, .model], p ∉ ps)
    (hpost : post (op (s.fillTlb (byteOfWord wa)) (pageAddress d (byteOfWord wa)) d).advance) :
    Completes i s ps post :=
  completes_of_advance (by rw [hexec, State.cacheOp_of_allows _ hallow]) hframe hown hpost

theorem State.fillTlb_cacheSet (s : State) (va : VAddr) (j : Fin 16) : (s.fillTlb va).cacheSet j = s.cacheSet j :=
  (unchanged_fillTlb s va).cacheSet fetchParts_not_mem_tlb j

theorem State.fillTlb_mainLine (s : State) (va : VAddr) (b : PAddr) : (s.fillTlb va).mainLine b = s.mainLine b :=
  (unchanged_fillTlb s va).mainLine fetchParts_not_mem_tlb b

theorem State.fillTlb_fetchCopy (s : State) (va : VAddr) (b : PAddr) : (s.fillTlb va).fetchCopy b = s.fetchCopy b :=
  (unchanged_fillTlb s va).fetchCopy fetchParts_not_mem_tlb b

theorem State.fillTlb_storedHalf (s : State) (va : VAddr) (h : PAddr) :
    (s.fillTlb va).storedHalf h = s.storedHalf h :=
  (unchanged_fillTlb s va).storedHalf fetchParts_not_mem_tlb h

theorem State.fillTlb_stored (s : State) (va : VAddr) : (s.fillTlb va).stored = s.stored :=
  unchanged_fillTlb s va .stored (by simp)

theorem State.fillTlb_dcache (s : State) (va : VAddr) : (s.fillTlb va).dcache = s.dcache :=
  unchanged_fillTlb s va .dataCache (by simp)

/-! ### PDC -/

/-- PDC does nothing, or brings in a line that is not there. -/
theorem State.prefetchData_cases (s : State) (pa : PAddr) (d : PageDesc) : s.prefetchData pa d = s ∨
    (s.cacheSet (setIndex pa)).findWay (s.lineBase pa) = none ∧ s.prefetchData pa d = s.useLine pa d false := by
  unfold prefetchData
  split
  · exact .inl rfl
  · rename_i hmiss
    by_cases hfree : s.transferFree = true
    · obtain ⟨c, hc⟩ := s.useLine_eq pa d false
      exact .inr ⟨hmiss, by simp only [hfree, if_true, hc]⟩
    · exact .inl (by simp only [hfree]; rfl)

/-- Before the program counters go on, PDC has filled the TLB only, or has loaded from a line that was not there. -/
theorem State.prefetchData_fillTlb_cases (s : State) (va : VAddr) (pa : PAddr) (d : PageDesc) :
    (s.fillTlb va).prefetchData pa d = s.fillTlb va ∨
    (s.cacheSet (setIndex pa)).findWay (s.lineBase pa) = none ∧
      (s.fillTlb va).prefetchData pa d = s.accessed va pa d false := by
  have hcases := (s.fillTlb va).prefetchData_cases pa d
  rwa [fillTlb_cacheSet, fillTlb_lineBase] at hcases

section
variable {s t : State} {pa : PAddr} {d : PageDesc} {store : Bool} (h : AccessDone s t pa d store)
  (hm : memoryWf s.mem) (hc : s.CacheWf)
include h

theorem AccessDone.lineAt_isSome : (t.lineAt pa).isSome = true := by
  rw [State.lineAt_of_find (by rw [h.lineBase, h.findWay])]
  rfl

variable (hmiss : (s.cacheSet (setIndex pa)).findWay (s.lineBase pa) = none)
include hmiss hm hc

/-- An access that brings its line in keeps what Main Memory holds of the others, and writes back the one
replaced. -/
theorem AccessDone.mainAfter : MainAfter s t pa (s.victim pa) := by
  have hset := h.cacheSet_self
  rw [State.usedWay_of_miss hmiss] at hset
  rw [State.victim_of_miss hmiss]
  refine mainAfter_of_replaced h.params (fun j hj => h.cacheSet_other hj) hm hc ?_ (fun v hv => .inl ?_) fun a ha => ?_
  · rw [hset, CacheSet.way_put_self, (s.usedEntry_line pa d store).2]
  · rw [hset, CacheSet.way_put_other _ _ _ hv]
  · rw [h.mem a ha, State.memoryAfter_of_miss hmiss]

end

/-- A load that brings its line in leaves what Main Memory holds of it. -/
theorem AccessDone.storedLine_of_filled {s t : State} {pa : PAddr} {d : PageDesc} (h : AccessDone s t pa d false)
    (hm : memoryWf s.mem) (hc : s.CacheWf) (hmiss : (s.cacheSet (setIndex pa)).findWay (s.lineBase pa) = none)
    (hmem : ∀ a, s.inLine pa a → readByte t.mem a = readByte (s.memoryAfter pa) a) :
    t.storedLine pa = s.storedLine pa := by
  have hfind : (t.cacheSet (setIndex pa)).findWay (t.lineBase pa) = some (s.usedWay pa) := by
    rw [h.lineBase, h.findWay]
  have hseen : t.seenLine pa = s.seenLine pa := by
    unfold State.seenLine
    rw [h.lineBase, State.lineBytes_congr h.params]
    refine readBytes_congr fun k hk => ?_
    have hline : s.inLine pa ((s.lineBase pa).toNat + k) := ⟨by omega, by omega⟩
    rw [hmem _ hline, State.readByte_memoryAfter_line hm hc hline]
  rw [State.storedLine_of_find hfind, State.storedLine_of_none hmiss, h.way_used, State.usedEntry_of_miss d false hmiss,
    hseen]
  rfl

/-! ### The instruction cache -/

/-- PIC keeps every copy, and may add one of what Main Memory holds of its line. -/
theorem State.prefetchInst_fetchCopy (s : State) (pa : PAddr) :
    (∀ b, b ≠ s.lineBase pa → (s.prefetchInst pa).fetchCopy b = s.fetchCopy b) ∧
    ((s.prefetchInst pa).fetchCopy (s.lineBase pa) = s.fetchCopy (s.lineBase pa) ∨
      s.fetchCopy (s.lineBase pa) = none ∧
        (s.prefetchInst pa).fetchCopy (s.lineBase pa) = some (s.storedLine pa)) := by
  unfold prefetchInst
  dsimp only
  split
  · exact ⟨fun _ _ => rfl, .inl rfl⟩
  · rename_i hnone
    by_cases hfree : s.transferFree = true
    · rw [if_pos hfree]
      refine ⟨fun b hb => ?_, .inr ⟨hnone, ?_⟩⟩
      · unfold fetchCopy
        rw [List.find?_cons_of_neg (by simpa using hb.symm)]
      · simp [fetchCopy, storedLine]
    · rw [if_neg hfree]
      exact ⟨fun _ _ => rfl, .inl rfl⟩

theorem State.fetchCopy_dropFetch_other {s : State} {pa b : PAddr} (h : b ≠ s.lineBase pa) :
    (s.dropFetch pa).fetchCopy b = s.fetchCopy b := by
  have hfind : (s.icache.filter (fun l => l.base != s.lineBase pa)).find? (fun l => l.base == b) =
      s.icache.find? (fun l => l.base == b) := by
    rw [List.find?_filter]
    refine List.find?_congr fun l _ => ?_
    by_cases hl : l.base = b <;> simp [hl, h]
  simp only [fetchCopy, dropFetch, hfind]

theorem unchanged_instCache {s : State} {c : List FetchLine} {q : List StoredHalf} {ps : List Part}
    (hicache : Part.instCache ∉ ps → c = s.icache) (hstored : Part.stored ∉ ps → q = s.stored) :
    Unchanged s { s with icache := c, stored := q } ps := by
  have hpu : ∀ p, ({ s with icache := c, stored := q } : State).pu p = s.pu p := fun p => by cases p <;> rfl
  have hcpu : ({ s with icache := c, stored := q } : State).cpu = s.cpu := hpu s.turn
  intro p hp
  cases p with
  | instCache => exact hicache hp
  | stored => exact hstored hp
  | otherPus => exact fun q _ => hpu q
  | memory | dataCache | tlb | test | window | semaphores | eventCounters | eventConfig | interruptArgument
  | pageTable | pending | model => simp [Part.Same]
  | reg r | status b | counters | mask | remainder | product | statusSave | trapArg | queue | returnMark
  | waitSem | run | waitMask | pendInter | pendRestart | intervals | waitEnded => simp [Part.Same, hcpu]

theorem unchanged_prefetchInst (s : State) (pa : PAddr) : Unchanged s (s.prefetchInst pa) [.instCache] := by
  unfold State.prefetchInst
  dsimp only
  split
  · exact (Unchanged.refl s).mono (List.nil_subset _)
  · exact unchanged_instCache (fun h => absurd (by simp) h) fun _ => rfl

theorem unchanged_dropFetch (s : State) (pa : PAddr) : Unchanged s (s.dropFetch pa) [.instCache, .stored] :=
  unchanged_instCache (fun h => absurd (by simp) h) fun h => absurd (by simp) h

theorem unchanged_dropAllFetch (s : State) : Unchanged s s.dropAllFetch [.instCache, .stored] :=
  unchanged_instCache (fun h => absurd (by simp) h) fun h => absurd (by simp) h

theorem State.advance_fetchCopy (s : State) (b : PAddr) : s.advance.fetchCopy b = s.fetchCopy b :=
  (unchanged_advance s).fetchCopy fetchParts_not_mem_stepParts b

theorem State.advance_storedHalf (s : State) (h : PAddr) : s.advance.storedHalf h = s.storedHalf h :=
  (unchanged_advance s).storedHalf fetchParts_not_mem_stepParts h

/-! ### Each of the instructions -/

/-- What PDC does: nothing but translation, or the load of a line that was not there. -/
theorem exec_pdc_of_allows {s : State} {ra : Reg} {d : PageDesc}
    (hallow : s.Allows (byteOfWord (wordAddress (s.rd ra) 0)) .load d) :
    let pa := pageAddress d (byteOfWord (wordAddress (s.rd ra) 0))
    Completes (.pdc ra) s (accessParts ++ [.memory]) (fun t =>
      (t.dcache = s.dcache ∧ ∀ a, readByte t.mem a = readByte s.mem a) ∨
        (s.cacheSet (setIndex pa)).findWay (s.lineBase pa) = none ∧ AccessDone s t pa d false ∧
          ∀ a, readByte t.mem a = readByte (s.memoryAfter pa) a) := by
  intro pa
  have hfilled := unchanged_fillTlb s (byteOfWord (wordAddress (s.rd ra) 0))
  obtain hnothing | ⟨hmiss, hload⟩ := s.prefetchData_fillTlb_cases (byteOfWord (wordAddress (s.rd ra) 0)) pa d
  · refine completes_of_cacheOp rfl hallow ?_ (by simp [accessParts]) (.inl ?_)
    · rw [hnothing]
      exact hfilled.mono (by simp [accessParts])
    · rw [hnothing, State.advance_dcache, State.advance_mem, State.fillTlb_dcache, State.fillTlb_mem]
      exact ⟨rfl, fun _ => rfl⟩
  · refine completes_of_cacheOp rfl hallow ?_ (by simp [accessParts]) (.inr ⟨hmiss, ?_, fun a => ?_⟩)
    · rw [hload]
      exact unchanged_accessed s _ pa d false
    · rw [hload]
      exact (accessDone_accessed ..).of_unchanged (unchanged_advance _) fetchParts_not_mem_stepParts
    · rw [hload, State.advance_mem, State.accessed_fields]

/-- PIC, whichever word it names. -/
theorem completes_prefetchInst {i : Instr} {s : State} {wa : WAddr} {d : PageDesc}
    (hexec : exec i s = .next (s.cacheOp wa .load (fun t pa _ => t.prefetchInst pa)))
    (hallow : s.Allows (byteOfWord wa) .load d) :
    let pa := pageAddress d (byteOfWord wa)
    Completes i s [.tlb, .instCache] (fun t =>
      (∀ base, base ≠ s.lineBase pa → t.fetchCopy base = s.fetchCopy base) ∧
        (t.fetchCopy (s.lineBase pa) = s.fetchCopy (s.lineBase pa) ∨
          s.fetchCopy (s.lineBase pa) = none ∧ t.fetchCopy (s.lineBase pa) = some (s.storedLine pa))) := by
  intro pa
  have hcopies := (s.fillTlb (byteOfWord wa)).prefetchInst_fetchCopy pa
  simp only [State.storedLine, State.fillTlb_lineBase, State.fillTlb_fetchCopy, State.fillTlb_mainLine] at hcopies
  refine completes_of_cacheOp hexec hallow ?_ (by simp) ?_
  · exact (unchanged_fillTlb s _).trans (State.fillTlb_turn ..) (unchanged_prefetchInst _ _)
  · simp only [State.advance_fetchCopy]
    exact hcopies

/-- Settles O57: PDC does nothing or what a load of a line that is not there does; the others change the instruction
cache's copies and the records only. -/
theorem prefetchesAndInstructionCache : Obligations.PrefetchesAndInstructionCache := by
  refine ⟨fun s d hm => ⟨?_, ?_⟩, fun s => ⟨?_, ?_⟩⟩
  · intro ra va pa hallow
    obtain ⟨t, hexec, hcases, hadvances, hframe⟩ := exec_pdc_of_allows hallow
    refine ⟨t, hexec, hadvances, ?_, ?_, hframe, fun a ha => ?_⟩
    · refine hcases.imp_right fun ⟨hmiss, hdone, hmem⟩ => ?_
      exact ⟨State.lineAt_eq_none_iff.mpr hmiss, hdone.lineAt_isSome, hdone.cacheAfter hm, fun hc =>
        ⟨hdone.mainAfter hm hc hmiss, hdone.storedLine_of_filled hm hc hmiss fun a _ => hmem a⟩⟩
    · intro hthere
      obtain ⟨hcache, -⟩ | ⟨hmiss, -⟩ := hcases
      · exact hcache
      · simp [State.lineAt_eq_none_iff.mpr hmiss, pa, va] at hthere
    · obtain ⟨-, hmem⟩ | ⟨-, -, hmem⟩ := hcases
      · exact hmem a
      · exact (hmem a).trans (State.readByte_memoryAfter hm _ a ha)
  · intro i wa hi pa hallow
    have hexec : exec i s = .next (s.cacheOp wa .load (fun t pa _ => t.prefetchInst pa)) := by
      obtain ⟨ra, rfl, rfl⟩ | ⟨disp, rfl, hwa⟩ := hi
      · rfl
      · rw [wordOfHalf_of_toNat hwa]
        rfl
    obtain ⟨t, hnext, ⟨hothers, hcopy⟩, hadvances, hframe⟩ := completes_prefetchInst hexec hallow
    exact ⟨t, hnext, hadvances, hothers, hcopy, hframe⟩
  · intro ra d va pa hallow
    obtain ⟨t, hexec, ⟨hgone, hothers, hrecords⟩, hadvances, hframe⟩ :
        Completes (.iic ra) s [.tlb, .instCache, .stored] (fun t => t.fetchCopy (s.lineBase pa) = none ∧
          (∀ base, base ≠ s.lineBase pa → t.fetchCopy base = s.fetchCopy base) ∧
          (s.StoredWf → ∀ h, t.storedHalf h = (s.storedHalf h).filter (fun r =>
            !(r.written && decide (s.lineBase h = s.lineBase pa))))) := by
      refine completes_of_cacheOp (exec_iic ra s) hallow ?_ (by simp) ⟨?_, fun b hb => ?_, fun hs h => ?_⟩
      · exact (unchanged_fillTlb s va).trans (State.fillTlb_turn ..) (unchanged_dropFetch _ _)
      · rw [State.advance_fetchCopy, ← s.fillTlb_lineBase va]
        exact State.fetchCopy_dropFetch rfl
      · rw [State.advance_fetchCopy, State.fetchCopy_dropFetch_other (by rwa [State.fillTlb_lineBase]),
          State.fillTlb_fetchCopy]
      · have hwf : (s.fillTlb va).StoredWf := by rwa [State.StoredWf, State.fillTlb_stored]
        rw [State.advance_storedHalf, State.storedHalf_dropFetch hwf, State.fillTlb_storedHalf]
        simp only [State.fillTlb_lineBase]
        rfl
    exact ⟨t, hexec, hadvances, hgone, hothers, hrecords, hframe⟩
  · intro hsystem
    refine completes_of_advance (exec_iicA_of_system hsystem) (unchanged_dropAllFetch s) (by simp)
      ⟨fun b => ?_, fun hs h => ?_⟩
    · rw [State.advance_fetchCopy]
      rfl
    · rw [State.advance_storedHalf, State.storedHalf_dropAllFetch hs]

end Sys2Proof.Machine
end

section
/-! PROOFS. FDC, IDC, UDC and VDC on a line (44_cache_control.md R290 to R292, R298 to R300; 20_memory.md R102), and
the records of stores that FDC and UDC mark (20_memory.md R100, L8). -/

namespace Sys2Proof.Machine

/-! ### What the four operations change -/

theorem State.writtenLine_eq_seenLine {s : State} {pa : PAddr} {w : Fin 4}
    (hfind : (s.cacheSet (setIndex pa)).findWay (s.lineBase pa) = some w)
    (hstored : ((s.cacheSet (setIndex pa)).way w).unstored = 0) :
    s.writtenLine ((s.cacheSet (setIndex pa)).way w) = s.seenLine pa := by
  rw [writtenLine_of_stored s hstored, (CacheSet.findWay_some hfind).2]
  rfl

theorem State.flushLine_of_find {s : State} {pa : PAddr} {w : Fin 4}
    (h : (s.cacheSet (setIndex pa)).findWay (s.lineBase pa) = some w) :
    s.flushLine pa = { s with
      mem := evictLine s.mem ((s.cacheSet (setIndex pa)).way w)
      dcache := putSet s.dcache (setIndex pa) ((s.cacheSet (setIndex pa)).put w
        ((s.cacheSet (setIndex pa)).way w).invalidated (lruWay (s.cacheSet (setIndex pa)).order w)) } := by
  simp [flushLine, h]

theorem State.flushLine_of_none {s : State} {pa : PAddr}
    (h : (s.cacheSet (setIndex pa)).findWay (s.lineBase pa) = none) : s.flushLine pa = s := by
  simp [flushLine, h]

theorem State.invalidateLine_of_find {s : State} {pa : PAddr} {w : Fin 4}
    (h : (s.cacheSet (setIndex pa)).findWay (s.lineBase pa) = some w) :
    s.invalidateLine pa = { s with
      mem := restoreLine s.mem ((s.cacheSet (setIndex pa)).way w).base ((s.cacheSet (setIndex pa)).way w).backing
      dcache := putSet s.dcache (setIndex pa) ((s.cacheSet (setIndex pa)).put w
        ((s.cacheSet (setIndex pa)).way w).invalidated (lruWay (s.cacheSet (setIndex pa)).order w)) } := by
  simp [invalidateLine, h]

theorem State.invalidateLine_of_none {s : State} {pa : PAddr}
    (h : (s.cacheSet (setIndex pa)).findWay (s.lineBase pa) = none) : s.invalidateLine pa = s := by
  simp [invalidateLine, h]

theorem State.validateLine_of_dirty {s : State} {pa : PAddr} {w : Fin 4}
    (hfind : (s.cacheSet (setIndex pa)).findWay (s.lineBase pa) = some w)
    (hdirty : ((s.cacheSet (setIndex pa)).way w).dirty = true) :
    s.validateLine pa = { s with dcache := putSet s.dcache (setIndex pa) ((s.cacheSet (setIndex pa)).put w
      { (s.cacheSet (setIndex pa)).way w with dirty := false } (s.cacheSet (setIndex pa)).order) } := by
  simp [validateLine, hfind, hdirty]

theorem State.validateLine_of_clean {s : State} {pa : PAddr}
    (h : ∀ w, (s.cacheSet (setIndex pa)).findWay (s.lineBase pa) = some w →
      ((s.cacheSet (setIndex pa)).way w).dirty = false) : s.validateLine pa = s := by
  cases hfind : (s.cacheSet (setIndex pa)).findWay (s.lineBase pa) with
  | none => simp [validateLine, hfind]
  | some w => simp [validateLine, hfind, h w hfind]

/-! ### A line that leaves the cache -/

/-- `t` is `s` after FDC (`k` is `.load`) or IDC (`.store`) of the line of `pa`, which entry `w` held. -/
structure LineDropped (s t : State) (pa : PAddr) (w : Fin 4) (k : AccessKind) : Prop where
  params : t.params = s.params
  dcache : t.dcache = putSet s.dcache (setIndex pa) ((s.cacheSet (setIndex pa)).put w
    ((s.cacheSet (setIndex pa)).way w).invalidated (lruWay (s.cacheSet (setIndex pa)).order w))
  line : readBytes t.mem (s.lineBase pa).toNat s.lineBytes =
    if ((s.cacheSet (setIndex pa)).way w).dirty = true ∧ k = .load then
      s.writtenLine ((s.cacheSet (setIndex pa)).way w)
    else s.storedLine pa
  others : ∀ a, ¬s.inLine pa a → readByte t.mem a = readByte s.mem a

section
variable {s : State} (hm : memoryWf s.mem) (hc : s.CacheWf) {pa : PAddr} {w : Fin 4}
  (hfind : (s.cacheSet (setIndex pa)).findWay (s.lineBase pa) = some w)
include hm hc hfind

theorem lineDropped_flushLine : LineDropped s (s.flushLine pa) pa w .load := by
  obtain ⟨hvalid, hbase⟩ := CacheSet.findWay_some hfind
  obtain ⟨-, hlen, -⟩ := (hc (setIndex pa)).2.1 w
  have hline := readBytes_evictLine hm hc hvalid
  rw [hbase] at hline
  rw [State.flushLine_of_find hfind]
  refine ⟨rfl, rfl, ?_, fun a ha => readByte_evictLine_outside hm hlen (by rwa [hbase])⟩
  simpa [State.storedLine] using hline

theorem lineDropped_invalidateLine : LineDropped s (s.invalidateLine pa) pa w .store := by
  obtain ⟨-, hbase⟩ := CacheSet.findWay_some hfind
  obtain ⟨-, hlen, -⟩ := (hc (setIndex pa)).2.1 w
  have hline := readBytes_restoreLine hm (base := ((s.cacheSet (setIndex pa)).way w).base) hlen
  rw [State.invalidateLine_of_find hfind]
  refine ⟨rfl, rfl, ?_, fun a ha => readByte_restoreLine_outside hm hlen (by rwa [hbase])⟩
  rw [hbase] at hline ⊢
  simpa [State.storedLine_of_find hfind, State.seenLine] using hline

end

namespace LineDropped

variable {s u t : State} {pa : PAddr} {w : Fin 4} {k : AccessKind} (h : LineDropped s u pa w k)
include h

theorem congr (hsame : SameLines u t) : LineDropped s t pa w k :=
  ⟨hsame.params.trans h.params, hsame.dcache.trans h.dcache, hsame.mem ▸ h.line, hsame.mem ▸ h.others⟩

theorem cacheSet_self : u.cacheSet (setIndex pa) = (s.cacheSet (setIndex pa)).put w
    ((s.cacheSet (setIndex pa)).way w).invalidated (lruWay (s.cacheSet (setIndex pa)).order w) := by
  rw [State.cacheSet_putSet h.dcache, if_pos rfl]

theorem cacheSet_other {j : Fin 16} (hj : j ≠ setIndex pa) : u.cacheSet j = s.cacheSet j := by
  rw [State.cacheSet_putSet h.dcache, if_neg hj]

theorem lineBase (b : PAddr) : u.lineBase b = s.lineBase b := State.lineBase_congr h.params b

/-- Its entry is the next to be replaced. -/
theorem lru : (u.cacheSet (setIndex pa)).lru = w := by
  rw [h.cacheSet_self]
  rfl

theorem order : (u.cacheSet (setIndex pa)).order = w :: (s.cacheSet (setIndex pa)).order.erase w := by
  rw [h.cacheSet_self]
  rfl

theorem otherEntriesKept : OtherEntriesKept s u (setIndex pa) w := by
  refine ⟨fun v hv => ?_, fun j hj => h.cacheSet_other hj⟩
  rw [h.cacheSet_self, CacheSet.way_put_other _ _ _ hv]

theorem seenLine : u.seenLine pa = if ((s.cacheSet (setIndex pa)).way w).dirty = true ∧ k = .load then
      s.writtenLine ((s.cacheSet (setIndex pa)).way w) else s.storedLine pa := by
  rw [State.seenLine, h.lineBase, State.lineBytes_congr h.params, h.line]

variable (hfind : (s.cacheSet (setIndex pa)).findWay (s.lineBase pa) = some w)
include hfind

theorem findWay_eq_none (hc : s.CacheWf) : (u.cacheSet (setIndex pa)).findWay (u.lineBase pa) = none := by
  rw [h.lineBase, h.cacheSet_self]
  exact (hc (setIndex pa)).findWay_invalidated hfind _

theorem storedLine (hc : s.CacheWf) : u.storedLine pa = u.seenLine pa :=
  State.storedLine_of_none (h.findWay_eq_none hfind hc)

theorem mainAfter : MainAfter s u pa none := by
  obtain ⟨-, hbase⟩ := CacheSet.findWay_some hfind
  refine mainAfter_of_line h.params (fun j hj => h.cacheSet_other hj) (fun v => ?_) h.others
  by_cases hv : v = w
  · subst hv
    refine .inr ⟨hbase, fun hvalid => ?_⟩
    rw [h.cacheSet_self, CacheSet.way_put_self] at hvalid
    cases hvalid
  · exact .inl (h.otherEntriesKept.1 v hv)

end LineDropped

/-! ### A line that stays, unmodified -/

/-- A modified entry after UDC (`k` is `.load`) or VDC (`.store`). -/
def CacheLine.cleaned (e : CacheLine) (m : Memory) (k : AccessKind) : CacheLine :=
  { e with dirty := false, backing := if k = .load then e.writtenBack m else e.backing }

/-- `t` is `s` after UDC (`k` is `.load`) or VDC (`.store`) of the line of `pa`, which the modified entry `w` held. -/
structure LineCleaned (s t : State) (pa : PAddr) (w : Fin 4) (k : AccessKind) : Prop where
  params : t.params = s.params
  dcache : t.dcache = putSet s.dcache (setIndex pa) ((s.cacheSet (setIndex pa)).put w
    (((s.cacheSet (setIndex pa)).way w).cleaned s.mem k) (s.cacheSet (setIndex pa)).order)
  mem : t.mem = s.mem

theorem lineCleaned_updateLine {s : State} {pa : PAddr} {w : Fin 4}
    (hfind : (s.cacheSet (setIndex pa)).findWay (s.lineBase pa) = some w)
    (hdirty : ((s.cacheSet (setIndex pa)).way w).dirty = true) : LineCleaned s (s.updateLine pa) pa w .load := by
  rw [State.updateLine_of_dirty hfind hdirty]
  exact ⟨rfl, rfl, rfl⟩

theorem lineCleaned_validateLine {s : State} {pa : PAddr} {w : Fin 4}
    (hfind : (s.cacheSet (setIndex pa)).findWay (s.lineBase pa) = some w)
    (hdirty : ((s.cacheSet (setIndex pa)).way w).dirty = true) : LineCleaned s (s.validateLine pa) pa w .store := by
  rw [State.validateLine_of_dirty hfind hdirty]
  exact ⟨rfl, rfl, rfl⟩

namespace LineCleaned

variable {s u t : State} {pa : PAddr} {w : Fin 4} {k : AccessKind} (h : LineCleaned s u pa w k)
include h

theorem congr (hsame : SameLines u t) : LineCleaned s t pa w k :=
  ⟨hsame.params.trans h.params, hsame.dcache.trans h.dcache, hsame.mem.trans h.mem⟩

theorem cacheSet_self : u.cacheSet (setIndex pa) = (s.cacheSet (setIndex pa)).put w
    (((s.cacheSet (setIndex pa)).way w).cleaned s.mem k) (s.cacheSet (setIndex pa)).order := by
  rw [State.cacheSet_putSet h.dcache, if_pos rfl]

theorem way_self : (u.cacheSet (setIndex pa)).way w = ((s.cacheSet (setIndex pa)).way w).cleaned s.mem k := by
  rw [h.cacheSet_self, CacheSet.way_put_self]

theorem otherEntriesKept : OtherEntriesKept s u (setIndex pa) w := by
  refine ⟨fun v hv => ?_, fun j hj => ?_⟩
  · rw [h.cacheSet_self, CacheSet.way_put_other _ _ _ hv]
  · rw [State.cacheSet_putSet h.dcache, if_neg hj]

theorem seenLine : u.seenLine pa = s.seenLine pa := by
  rw [State.seenLine, State.lineBase_congr h.params, State.lineBytes_congr h.params, h.mem]
  rfl

variable (hfind : (s.cacheSet (setIndex pa)).findWay (s.lineBase pa) = some w)
include hfind

theorem findWay : (u.cacheSet (setIndex pa)).findWay (u.lineBase pa) = some w := by
  obtain ⟨hvalid, hbase⟩ := CacheSet.findWay_some hfind
  rw [State.lineBase_congr h.params, h.cacheSet_self]
  exact CacheSet.findWay_put _ hvalid hbase fun v hv => Option.some.inj (hv.symm.trans hfind)

theorem mainAfter : MainAfter s u pa none := by
  obtain ⟨-, hbase⟩ := CacheSet.findWay_some hfind
  refine mainAfter_of_line h.params h.otherEntriesKept.2 (fun v => ?_) fun a _ => by rw [h.mem]
  by_cases hv : v = w
  · subst hv
    refine .inr ⟨hbase, fun _ => ?_⟩
    rw [h.way_self]
    exact hbase
  · exact .inl (h.otherEntriesKept.1 v hv)

/-- Main Memory then holds what was written back, after UDC, or what it held, after VDC. -/
theorem storedLine (hc : s.CacheWf) (hdirty : ((s.cacheSet (setIndex pa)).way w).dirty = true) :
    u.storedLine pa =
      if k = .load then s.writtenLine ((s.cacheSet (setIndex pa)).way w) else s.storedLine pa := by
  rw [State.storedLine_of_find (h.findWay hfind), h.way_self, h.seenLine]
  by_cases hk : k = .load
  · obtain ⟨hvalid, -⟩ := CacheSet.findWay_some hfind
    rw [if_pos hk, CacheLine.cleaned, if_pos hk]
    by_cases hstored : ((s.cacheSet (setIndex pa)).way w).unstored = 0
    · rw [CacheLine.writtenBack_of_stored _ hdirty hstored, State.writtenLine_eq_seenLine hfind hstored]
      rfl
    · obtain ⟨-, hlen, hkeeps⟩ := (hc (setIndex pa)).2.1 w
      obtain ⟨kept, hkept⟩ := Option.isSome_iff_exists.mp (hkeeps (.inl hdirty))
      rw [CacheLine.writtenBack, if_pos hdirty, if_neg hstored, State.writtenLine, State.mainLine_of_way hc hvalid,
        hkept, ← hlen kept hkept]
      rfl
  · rw [if_neg hk, CacheLine.cleaned, if_neg hk, State.storedLine_of_find hfind]

end LineCleaned

/-! ### The instructions -/

/-- FDC and UDC (`k` is `.load`) mark the records of the stores to the line of `pa`; IDC and VDC (`.store`) leave
them. -/
structure MarksRecords (s t : State) (pa : PAddr) (k : AccessKind) : Prop where
  records : ∀ h, t.storedHalf h = (s.storedHalf h).map (fun r =>
    { r with written := r.written || decide (k = .load ∧ s.lineBase h = s.lineBase pa) })
  stored : k = .store → t.stored = s.stored

theorem marksRecords_noteWritten {s u : State} (pa : PAddr) (hparams : u.params = s.params)
    (hstored : u.stored = s.stored) : MarksRecords s (u.noteWritten pa) pa .load := by
  refine ⟨fun h => ?_, fun hk => by cases hk⟩
  rw [State.storedHalf_noteWritten, State.storedHalf, hstored]
  simp [State.storedHalf, State.lineBase_congr hparams, Bool.beq_eq_decide_eq]

theorem marksRecords_of_stored {s t : State} (pa : PAddr) (hstored : t.stored = s.stored) :
    MarksRecords s t pa .store := by
  refine ⟨fun h => ?_, fun _ => hstored⟩
  simp [State.storedHalf, hstored]

theorem MarksRecords.congr {s u t : State} {pa : PAddr} {k : AccessKind} (h : MarksRecords s u pa k)
    (hsame : t.stored = u.stored) : MarksRecords s t pa k := by
  refine ⟨fun a => ?_, fun hk => hsame.trans (h.stored hk)⟩
  rw [State.storedHalf, hsame]
  exact h.records a

/-- `u` is `s` after the translation and the operation of FDC (`k` is `.load`) or IDC (`.store`). -/
structure DropsLine (s u : State) (pa : PAddr) (k : AccessKind) : Prop where
  frame : Unchanged s u (accessParts ++ [.memory, .stored])
  records : MarksRecords s u pa k
  miss : (s.cacheSet (setIndex pa)).findWay (s.lineBase pa) = none → Unchanged s u [.tlb, .stored]
  hit : ∀ w, (s.cacheSet (setIndex pa)).findWay (s.lineBase pa) = some w → LineDropped s u pa w k

theorem unchanged_tlbStored {s : State} {l : List TlbEntry} {q : List StoredHalf} :
    Unchanged s { s with tlb := l, stored := q } [.tlb, .stored] :=
  unchanged_memory (fun h => absurd (by simp) h) (fun _ => rfl) (fun _ _ => rfl) fun h => absurd (by simp) h

theorem unchanged_lineParts {s : State} {l : List TlbEntry} {c : Vector CacheSet 16} {m : Memory}
    {q : List StoredHalf} :
    Unchanged s { s with tlb := l, dcache := c, mem := m, stored := q } (accessParts ++ [.memory, .stored]) :=
  unchanged_memory (fun h => absurd (by simp [accessParts]) h) (fun h => absurd (by simp [accessParts]) h)
    (fun h => absurd (by simp) h) fun h => absurd (by simp) h

section
variable {s : State} (hm : memoryWf s.mem) (hc : s.CacheWf) (va : VAddr) (pa : PAddr)
include hm hc

theorem dropsLine_flushLine : DropsLine s (((s.fillTlb va).flushLine pa).noteWritten pa) pa .load := by
  obtain ⟨l, hl⟩ := s.fillTlb_eq va
  obtain ⟨m, c, heq⟩ := ({ s with tlb := l } : State).flushLine_eq pa
  rw [hl]
  refine ⟨?_, ?_, fun hmiss => ?_, fun w hfind => ?_⟩
  · rw [heq]
    exact unchanged_lineParts
  · exact marksRecords_noteWritten pa (by rw [heq]) (by rw [heq])
  · rw [State.flushLine_of_none (s := { s with tlb := l }) hmiss]
    exact unchanged_tlbStored
  · obtain ⟨hparams, hcache, hline, hothers⟩ := lineDropped_flushLine (s := { s with tlb := l }) hm hc hfind
    exact ⟨hparams, hcache, hline, hothers⟩

theorem dropsLine_invalidateLine : DropsLine s ((s.fillTlb va).invalidateLine pa) pa .store := by
  obtain ⟨l, hl⟩ := s.fillTlb_eq va
  obtain ⟨m, c, heq⟩ := ({ s with tlb := l } : State).invalidateLine_eq pa
  rw [hl]
  refine ⟨?_, ?_, fun hmiss => ?_, fun w hfind => ?_⟩
  · rw [heq]
    exact unchanged_lineParts
  · exact marksRecords_of_stored pa (by rw [heq])
  · rw [State.invalidateLine_of_none (s := { s with tlb := l }) hmiss]
    exact unchanged_tlbStored
  · obtain ⟨hparams, hcache, hline, hothers⟩ := lineDropped_invalidateLine (s := { s with tlb := l }) hm hc hfind
    exact ⟨hparams, hcache, hline, hothers⟩

/-- FDC and IDC do their operation and go on. -/
theorem exec_dropsLine {ra : Reg} {i : Instr} {k : AccessKind} {d : PageDesc}
    (hi : (i = .fdc ra ∧ k = .load) ∨ (i = .idc ra ∧ k = .store))
    (hallow : s.Allows (byteOfWord (wordAddress (s.rd ra) 0)) k d) :
    ∃ u, exec i s = .next u.advance ∧
      DropsLine s u (pageAddress d (byteOfWord (wordAddress (s.rd ra) 0))) k := by
  obtain ⟨rfl, rfl⟩ | ⟨rfl, rfl⟩ := hi
  · exact ⟨_, by rw [exec_fdc, State.cacheOp_of_allows _ hallow], dropsLine_flushLine hm hc _ _⟩
  · exact ⟨_, congrArg Host.Outcome.next (State.cacheOp_of_allows _ hallow), dropsLine_invalidateLine hm hc _ _⟩

end

theorem unchanged_cacheParts {s : State} {l : List TlbEntry} {c : Vector CacheSet 16} {q : List StoredHalf} :
    Unchanged s { s with tlb := l, dcache := c, stored := q } (accessParts ++ [.stored]) :=
  unchanged_memory (fun h => absurd (by simp [accessParts]) h) (fun h => absurd (by simp [accessParts]) h)
    (fun _ _ => rfl) fun h => absurd (by simp) h

/-- `u` is `s` after the translation and the operation of UDC (`k` is `.load`) or VDC (`.store`). -/
structure CleansLine (s u : State) (pa : PAddr) (k : AccessKind) : Prop where
  frame : Unchanged s u (accessParts ++ [.stored])
  params : u.params = s.params
  records : MarksRecords s u pa k
  clean : (∀ w, (s.cacheSet (setIndex pa)).findWay (s.lineBase pa) = some w →
    ((s.cacheSet (setIndex pa)).way w).dirty = false) → u.dcache = s.dcache ∧ u.mem = s.mem
  dirty : ∀ w, (s.cacheSet (setIndex pa)).findWay (s.lineBase pa) = some w →
    ((s.cacheSet (setIndex pa)).way w).dirty = true → LineCleaned s u pa w k

section
variable (s : State) (va : VAddr) (pa : PAddr)

theorem cleansLine_updateLine : CleansLine s (((s.fillTlb va).updateLine pa).noteWritten pa) pa .load := by
  obtain ⟨l, hl⟩ := s.fillTlb_eq va
  obtain ⟨c, heq⟩ := ({ s with tlb := l } : State).updateLine_eq pa
  rw [hl]
  refine ⟨?_, ?_, ?_, fun hclean => ?_, fun w hfind hdirty => ?_⟩
  · rw [heq]
    exact unchanged_cacheParts
  · rw [heq]
    rfl
  · exact marksRecords_noteWritten pa (by rw [heq]) (by rw [heq])
  · rw [State.updateLine_of_clean (s := { s with tlb := l }) hclean]
    exact ⟨rfl, rfl⟩
  · obtain ⟨hparams, hcache, hmem⟩ := lineCleaned_updateLine (s := { s with tlb := l }) hfind hdirty
    exact ⟨hparams, hcache, hmem⟩

theorem cleansLine_validateLine : CleansLine s ((s.fillTlb va).validateLine pa) pa .store := by
  obtain ⟨l, hl⟩ := s.fillTlb_eq va
  obtain ⟨c, heq⟩ := ({ s with tlb := l } : State).validateLine_eq pa
  rw [hl]
  refine ⟨?_, ?_, ?_, fun hclean => ?_, fun w hfind hdirty => ?_⟩
  · rw [heq]
    exact unchanged_cacheParts
  · rw [heq]
  · exact marksRecords_of_stored pa (by rw [heq])
  · rw [State.validateLine_of_clean (s := { s with tlb := l }) hclean]
    exact ⟨rfl, rfl⟩
  · obtain ⟨hparams, hcache, hmem⟩ := lineCleaned_validateLine (s := { s with tlb := l }) hfind hdirty
    exact ⟨hparams, hcache, hmem⟩

/-- UDC and VDC do their operation and go on. -/
theorem exec_cleansLine {ra : Reg} {i : Instr} {k : AccessKind} {d : PageDesc}
    (hi : (i = .udc ra ∧ k = .load) ∨ (i = .vdc ra ∧ k = .store))
    (hallow : s.Allows (byteOfWord (wordAddress (s.rd ra) 0)) k d) :
    ∃ u, exec i s = .next u.advance ∧
      CleansLine s u (pageAddress d (byteOfWord (wordAddress (s.rd ra) 0))) k := by
  obtain ⟨rfl, rfl⟩ | ⟨rfl, rfl⟩ := hi
  · exact ⟨_, by rw [exec_udc, State.cacheOp_of_allows _ hallow], cleansLine_updateLine s _ _⟩
  · exact ⟨_, congrArg Host.Outcome.next (State.cacheOp_of_allows _ hallow), cleansLine_validateLine s _ _⟩

end

/-- The frame of an instruction that goes on after what its operation changes. -/
theorem Unchanged.advance {s u : State} {ps : List Part} (h : Unchanged s u ps) (hmodel : Part.model ∉ ps) :
    Unchanged s u.advance (stepParts ++ ps) :=
  (h.trans (h.turn hmodel) (unchanged_advance u)).mono fun p hp => by simpa [or_comm] using hp

theorem CleansLine.advance {s u : State} {pa : PAddr} {k : AccessKind} (h : CleansLine s u pa k) {w : Fin 4}
    (hfind : (s.cacheSet (setIndex pa)).findWay (s.lineBase pa) = some w)
    (hdirty : ((s.cacheSet (setIndex pa)).way w).dirty = true) : LineCleaned s u.advance pa w k :=
  (h.dirty w hfind hdirty).congr (State.advance_sameLines u)

/-- UDC and VDC keep what Main Memory holds of the other lines. -/
theorem CleansLine.mainAfter {s u : State} {pa : PAddr} {k : AccessKind} (h : CleansLine s u pa k) :
    MainAfter s u.advance pa none := by
  by_cases hclean : ∀ w, (s.cacheSet (setIndex pa)).findWay (s.lineBase pa) = some w →
      ((s.cacheSet (setIndex pa)).way w).dirty = false
  · obtain ⟨hcache, hmem⟩ := h.clean hclean
    have hsets : ∀ j, u.advance.cacheSet j = s.cacheSet j := fun j => by
      rw [State.cacheSet, State.advance_dcache, hcache]
      rfl
    refine mainAfter_of_line ((State.advance_params u).trans h.params) (fun j _ => hsets j)
      (fun v => .inl (by rw [hsets])) fun a _ => by rw [State.advance_mem, hmem]
  · push Not at hclean
    obtain ⟨w, hfind, hdirty⟩ := hclean
    exact (h.advance hfind (Bool.eq_true_of_not_eq_false hdirty)).mainAfter hfind

/-- Settles O55: FDC and IDC put the line out of the cache, UDC and VDC keep it unmodified. -/
theorem dataCacheLineInstructions : Obligations.DataCacheLineInstructions := by
  refine ⟨?_, ?_⟩
  · intro s ra i k d hi hm hc va pa hallow
    obtain ⟨u, hexec, hdrops⟩ := exec_dropsLine hm hc hi hallow
    have hrecords := hdrops.records.congr (State.advance_stored u)
    refine ⟨u.advance, hexec, advances_of_unchanged hdrops.frame (by simp [accessParts]), hrecords.records,
      hrecords.stored, fun hnone => ?_, fun e he => ?_⟩
    · exact (hdrops.miss (State.lineAt_eq_none_iff.mp hnone)).advance (by simp)
    · obtain ⟨w, hfind, rfl⟩ := State.find_of_lineAt he
      have hdropped := (hdrops.hit w hfind).congr (State.advance_sameLines u)
      have hstored := hdropped.storedLine hfind hc
      refine ⟨State.lineAt_eq_none_iff.mpr (hdropped.findWay_eq_none hfind hc), ?_, hstored.trans hdropped.seenLine,
        State.writtenLine_eq_seenLine hfind, hstored.symm, hdropped.others, ?_, hdropped.mainAfter hfind, ?_⟩
      · rw [hdropped.lru, hfind]
      · rw [hdropped.lru]
        exact ⟨hdropped.otherEntriesKept, hdropped.order⟩
      · exact hdrops.frame.advance (by simp [accessParts])
  · intro s ra i k d hi va pa hallow
    obtain ⟨u, hexec, hcleans⟩ := exec_cleansLine s hi hallow
    have hrecords := hcleans.records.congr (State.advance_stored u)
    refine ⟨u.advance, hexec, advances_of_unchanged hcleans.frame (by simp [accessParts]),
      hcleans.frame.advance (by simp [accessParts]), hrecords.records, hrecords.stored, fun hclean => ?_,
      fun e he hdirty => ?_, fun w hfind => ?_, hcleans.mainAfter⟩
    · rw [State.advance_dcache]
      exact (hcleans.clean fun w hfind => hclean _ (State.lineAt_of_find hfind)).1
    · obtain ⟨w, hfind, rfl⟩ := State.find_of_lineAt he
      have hcleaned := hcleans.advance hfind hdirty
      refine ⟨⟨_, State.lineAt_of_find (hcleaned.findWay hfind), ?_, ?_⟩, State.writtenLine_eq_seenLine hfind,
        fun hc => hcleaned.storedLine hfind hc hdirty⟩
      · rw [hcleaned.way_self]
        rfl
      · exact (CacheSet.findWay_some (hcleaned.findWay hfind)).1
    · cases hdirty : ((s.cacheSet (setIndex pa)).way w).dirty with
      | true =>
        have hcleaned := hcleans.advance hfind hdirty
        dsimp only
        rw [hcleaned.way_self]
        exact ⟨rfl, rfl, rfl, rfl, hcleaned.otherEntriesKept, by rw [hcleaned.cacheSet_self]; rfl⟩
      | false =>
        have hcache : u.advance.dcache = s.dcache := by
          rw [State.advance_dcache]
          refine (hcleans.clean fun v hv => ?_).1
          obtain rfl := Option.some.inj (hfind.symm.trans hv)
          exact hdirty
        have hsets : ∀ j, u.advance.cacheSet j = s.cacheSet j := fun j => by rw [State.cacheSet, hcache]; rfl
        simp only [hsets, true_and, and_true]
        exact ⟨fun v _ => by rw [hsets], fun j _ => hsets j⟩

end Sys2Proof.Machine
end

section
/-! PROOFS. CDC, and what FDC writes back of a line that CDC made (44_cache_control.md R290, R300, L42). -/

namespace Sys2Proof.Machine

/-! ### The set without the line -/

theorem State.clearedSet_way_of_find {s : State} {pa : PAddr} {v : Fin 4}
    (h : (s.cacheSet (setIndex pa)).findWay (s.lineBase pa) = some v) :
    (s.clearedSet pa).way v = ((s.cacheSet (setIndex pa)).way v).invalidated := by
  simp [clearedSet, h]

theorem State.clearedSet_way_of_ne {s : State} {pa : PAddr} {v : Fin 4}
    (h : (s.cacheSet (setIndex pa)).findWay (s.lineBase pa) ≠ some v) :
    (s.clearedSet pa).way v = (s.cacheSet (setIndex pa)).way v := by
  unfold clearedSet
  split
  · rename_i w hw
    exact CacheSet.way_put_other _ _ _ fun hv => h (hv ▸ hw)
  · rfl

/-! ### What Main Memory holds of the line made -/

section
variable {s : State} (hm : memoryWf s.mem) (hc : s.CacheWf) {pa : PAddr}
include hm hc

/-- Of a line that was not in the cache Main Memory keeps what it held. -/
theorem State.createdMain_of_miss (hmiss : (s.cacheSet (setIndex pa)).findWay (s.lineBase pa) = none) :
    s.createdMain pa = s.storedLine pa := by
  rw [createdMain, if_pos (.inl hmiss), storedLine_of_none hmiss]
  refine readBytes_congr fun k hk => readByte_evictLine_other hm hc (s.lineBase_lineBase pa) ?_ hk
  exact fun ⟨hvalid, hbase⟩ => CacheSet.findWay_none hmiss _ hvalid hbase

/-- A line that is made in its own entry is first written back. -/
theorem State.createdMain_of_lru
    (hfind : (s.cacheSet (setIndex pa)).findWay (s.lineBase pa) = some (s.cacheSet (setIndex pa)).lru) :
    s.createdMain pa =
      if ((s.cacheSet (setIndex pa)).way (s.cacheSet (setIndex pa)).lru).dirty = true then
        s.writtenLine ((s.cacheSet (setIndex pa)).way (s.cacheSet (setIndex pa)).lru)
      else s.storedLine pa := by
  obtain ⟨hvalid, hbase⟩ := CacheSet.findWay_some hfind
  have hline := readBytes_evictLine hm hc hvalid
  rw [hbase] at hline
  rw [createdMain, if_pos (.inr hfind)]
  exact hline

end

/-! ### After CDC -/

/-- `t` is `s` after CDC of the line of `pa` in page `d`. -/
structure LineCreated (s t : State) (pa : PAddr) (d : PageDesc) : Prop where
  params : t.params = s.params
  dcache : t.dcache = (s.createLine pa d).dcache
  mem : t.mem = (s.createLine pa d).mem

theorem lineCreated_createLine (s : State) (va : VAddr) (pa : PAddr) (d : PageDesc) :
    LineCreated s ((s.fillTlb va).createLine pa d) pa d := by
  obtain ⟨l, hl⟩ := s.fillTlb_eq va
  rw [hl]
  have hcreated := ({ s with tlb := l } : State).createLine_eq pa d
  exact ⟨by rw [hcreated], by rw [hcreated, s.createLine_eq]; rfl, by rw [hcreated, s.createLine_eq]; rfl⟩

theorem unchanged_createLine (s : State) (va : VAddr) (pa : PAddr) (d : PageDesc) :
    Unchanged s ((s.fillTlb va).createLine pa d) (accessParts ++ [.memory]) := by
  obtain ⟨l, hl⟩ := s.fillTlb_eq va
  rw [hl, State.createLine_eq]
  exact unchanged_memory (fun h => absurd (by simp [accessParts]) h) (fun h => absurd (by simp [accessParts]) h)
    (fun h => absurd (by simp) h) fun _ => rfl

namespace LineCreated

variable {s u t : State} {pa : PAddr} {d : PageDesc} (h : LineCreated s u pa d)
include h

theorem congr (hsame : SameLines u t) : LineCreated s t pa d :=
  ⟨hsame.params.trans h.params, hsame.dcache.trans h.dcache, hsame.mem.trans h.mem⟩

theorem lineBase (b : PAddr) : u.lineBase b = s.lineBase b := State.lineBase_congr h.params b

theorem cacheSet_eq (j : Fin 16) : u.cacheSet j = if j = setIndex pa then
    (s.clearedSet pa).put (s.cacheSet (setIndex pa)).lru (s.createdEntry pa d) (s.cacheSet (setIndex pa)).order
    else s.cacheSet j :=
  State.cacheSet_putSet (by rw [h.dcache, State.createLine_eq]) j

theorem cacheSet_self : u.cacheSet (setIndex pa) = (s.clearedSet pa).put (s.cacheSet (setIndex pa)).lru
    (s.createdEntry pa d) (s.cacheSet (setIndex pa)).order := by
  rw [h.cacheSet_eq, if_pos rfl]

theorem cacheSet_other {j : Fin 16} (hj : j ≠ setIndex pa) : u.cacheSet j = s.cacheSet j := by
  rw [h.cacheSet_eq, if_neg hj]

/-- The least recently used entry has become the line's. -/
theorem way_lru : (u.cacheSet (setIndex pa)).way (s.cacheSet (setIndex pa)).lru = s.createdEntry pa d := by
  rw [h.cacheSet_self, CacheSet.way_put_self]

theorem order : (u.cacheSet (setIndex pa)).order = (s.cacheSet (setIndex pa)).order := by
  rw [h.cacheSet_self]
  rfl

/-- Another entry that held the line is invalid. -/
theorem way_of_find {v : Fin 4} (hv : v ≠ (s.cacheSet (setIndex pa)).lru)
    (hfind : (s.cacheSet (setIndex pa)).findWay (s.lineBase pa) = some v) :
    ((u.cacheSet (setIndex pa)).way v).valid = false := by
  rw [h.cacheSet_self, CacheSet.way_put_other _ _ _ hv, State.clearedSet_way_of_find hfind]
  rfl

/-- Every other entry stays. -/
theorem way_of_ne {v : Fin 4} (hv : v ≠ (s.cacheSet (setIndex pa)).lru)
    (hfind : (s.cacheSet (setIndex pa)).findWay (s.lineBase pa) ≠ some v) :
    (u.cacheSet (setIndex pa)).way v = (s.cacheSet (setIndex pa)).way v := by
  rw [h.cacheSet_self, CacheSet.way_put_other _ _ _ hv, State.clearedSet_way_of_ne hfind]

section
variable (hc : s.CacheWf)
include hc

theorem cacheWf : u.CacheWf := (hc.createLine pa d).congr (h.params.trans (by rw [State.createLine_eq])) h.dcache

theorem findWay : (u.cacheSet (setIndex pa)).findWay (u.lineBase pa) = some (s.cacheSet (setIndex pa)).lru := by
  rw [h.lineBase, h.cacheSet_self]
  refine CacheSet.findWay_put _ rfl rfl fun v hv => ?_
  rw [State.clearedSet_findWay hc] at hv
  cases hv

theorem lineAt : u.lineAt pa = some (s.createdEntry pa d) := by
  rw [State.lineAt_of_find (h.findWay hc), h.way_lru]

theorem storedLine : u.storedLine pa = s.createdMain pa := by
  rw [State.storedLine_of_find (h.findWay hc), h.way_lru]
  rfl

end

variable (hm : memoryWf s.mem)
include hm

theorem mem_wf : memoryWf u.mem := h.mem ▸ State.createLine_wf hm pa d

/-- Outside the line memory is as the replaced entry leaves it. -/
theorem readByte_outside {a : Nat} (ha : ¬s.inLine pa a) :
    readByte u.mem a = readByte (s.memoryCleared pa) a := by
  have hcleared : memoryWf (s.memoryCleared pa) := evictLine_wf hm _
  rw [h.mem, State.createLine_eq, readByte_writeBytes hcleared, if_neg]
  rwa [freeBytes_length]

theorem mainAfter (hc : s.CacheWf) :
    MainAfter s u pa (some ((s.cacheSet (setIndex pa)).way (s.cacheSet (setIndex pa)).lru)) := by
  refine mainAfter_of_replaced h.params (fun j hj => h.cacheSet_other hj) hm hc ?_ (fun v hv => ?_)
    fun a ha => h.readByte_outside hm ha
  · rw [h.way_lru]
    rfl
  · by_cases hfind : (s.cacheSet (setIndex pa)).findWay (s.lineBase pa) = some v
    · exact .inr ⟨(CacheSet.findWay_some hfind).2, h.way_of_find hv hfind⟩
    · exact .inl (h.way_of_ne hv hfind)

end LineCreated

/-- An allowed CDC makes the line and goes on. -/
theorem exec_cdc_of_allows {s : State} {ra : Reg} {d : PageDesc}
    (hallow : s.Allows (byteOfWord (wordAddress (s.rd ra) 0)) .store d) :
    let pa := pageAddress d (byteOfWord (wordAddress (s.rd ra) 0))
    ∃ t, exec (.cdc ra) s = .next t ∧ Advances s t ∧ Unchanged s t (stepParts ++ (accessParts ++ [.memory])) ∧
      LineCreated s t pa d := by
  have hframe := unchanged_createLine s (byteOfWord (wordAddress (s.rd ra) 0))
    (pageAddress d (byteOfWord (wordAddress (s.rd ra) 0))) d
  exact ⟨_, congrArg Host.Outcome.next (State.cacheOp_of_allows _ hallow),
    advances_of_unchanged hframe (by simp [accessParts]), hframe.advance (by simp [accessParts]),
    (lineCreated_createLine s _ _ d).congr (State.advance_sameLines _)⟩

/-! ### A store of one word, and FDC -/

/-- The line of `pa` is in the cache, modified, and of its words only the one at `pa` is stored. -/
def State.OneWordStored (s : State) (pa : PAddr) (w : Fin 4) : Prop :=
  (s.cacheSet (setIndex pa)).findWay (s.lineBase pa) = some w ∧ ((s.cacheSet (setIndex pa)).way w).dirty = true ∧
    ∀ k < 16, ((s.cacheSet (setIndex pa)).way w).unstored.getLsbD k =
      (decide (4 * k < s.lineBytes) && !decide (k = (pa.toNat - (s.lineBase pa).toNat) / 4))

/-- A store into a line that CDC has just made. -/
theorem LineCreated.oneWordStored {s t u : State} {pa : PAddr} {d : PageDesc} (h : LineCreated s t pa d)
    (hc : s.CacheWf) (hparams : u.params = t.params) (hafter : CacheAfter t u pa d true) :
    ∃ w, u.OneWordStored pa w := by
  obtain ⟨w, hfind, hhit, -⟩ := hafter
  obtain ⟨rfl, hdirty, -, -, hunstored⟩ := hhit _ (h.findWay hc)
  refine ⟨_, by rwa [State.lineBase_congr hparams], by simpa using hdirty, fun k hk => ?_⟩
  rw [hunstored k hk, h.way_lru, State.createdEntry, State.allWords_getLsbD s hk, State.lineBase_congr hparams,
    State.lineBytes_congr hparams, State.lineBytes_congr h.params, Bool.true_and]

/-- Byte `k` of a line is of the word at `pa` exactly if it has the word's number. -/
theorem State.wordIndex_eq_iff (s : State) {pa : PAddr} (haligned : pa.toNat % 4 = 0) {k : Nat} :
    k / 4 = (pa.toNat - (s.lineBase pa).toNat) / 4 ↔
      pa.toNat ≤ (s.lineBase pa).toNat + k ∧ (s.lineBase pa).toNat + k < pa.toNat + 4 := by
  rw [lineBase_toNat]
  obtain h | h | h | h | h := s.lineBytes_cases <;> rw [h] <;> omega

/-- Of such a line, only the word stored is written back. -/
theorem State.OneWordStored.writtenLine_getD {s : State} {pa : PAddr} {w : Fin 4} (h : s.OneWordStored pa w)
    (haligned : pa.toNat % 4 = 0) {k : Nat} (hk : k < s.lineBytes) :
    (s.writtenLine ((s.cacheSet (setIndex pa)).way w)).getD k 0 =
      if pa.toNat ≤ (s.lineBase pa).toNat + k ∧ (s.lineBase pa).toNat + k < pa.toNat + 4 then
        readByte s.mem ((s.lineBase pa).toNat + k)
      else (s.storedLine pa).getD k 0 := by
  obtain ⟨hfind, -, hunstored⟩ := h
  obtain ⟨-, hbase⟩ := CacheSet.findWay_some hfind
  have hword : k / 4 < 16 := by
    obtain h | h | h | h | h := s.lineBytes_cases <;> omega
  have hinside : 4 * (k / 4) < s.lineBytes := by omega
  rw [Machine.writtenLine_getD hk, hunstored _ hword, hbase]
  simp only [hinside, decide_true, Bool.true_and, Bool.not_eq_true', decide_eq_false_iff_not,
    s.wordIndex_eq_iff haligned, ite_not]
  rfl

/-- FDC of such a line: Main Memory receives the word, and keeps what it held of the others. -/
theorem LineDropped.readByte_of_oneWordStored {s t : State} {pa : PAddr} {w : Fin 4}
    (h : LineDropped s t pa w .load) (hone : s.OneWordStored pa w) (haligned : pa.toNat % 4 = 0) {a : Nat}
    (ha : s.inLine pa a) : readByte t.mem a = if pa.toNat ≤ a ∧ a < pa.toNat + 4 then readByte s.mem a
      else (s.storedLine pa).getD (a - (s.lineBase pa).toNat) 0 := by
  obtain ⟨k, rfl⟩ := Nat.exists_eq_add_of_le ha.1
  have hk : k < s.lineBytes := Nat.lt_of_add_lt_add_left ha.2
  have hline := congrArg (fun l => l.getD k 0) h.line
  rw [if_pos ⟨hone.2.1, rfl⟩, hone.writtenLine_getD haligned hk] at hline
  rw [Nat.add_sub_cancel_left, ← hline]
  simp [readBytes, hk]

theorem readWord_congr_word {o : ByteOrder} {m m' : Memory} {a : Nat}
    (h : ∀ b, a ≤ b ∧ b < a + 4 → readByte m b = readByte m' b) : readWord o m a = readWord o m' a := by
  simp only [readWord, h a (by omega), h (a + 1) (by omega), h (a + 2) (by omega), h (a + 3) (by omega)]

theorem accessDone_afterStore {s : State} (hm : memoryWf s.mem) (wa : WAddr) (v : Word) (d : PageDesc) :
    AccessDone s (s.afterStore wa v d) (pageAddress d (byteOfWord wa)) d true := by
  obtain ⟨q, hq⟩ := s.afterStore_fields wa v d
  rw [hq]
  exact ⟨rfl, rfl, fun a ha => readByte_store_outside hm wa v d ha⟩

theorem AccessDone.cacheWf {s t : State} {pa : PAddr} {d : PageDesc} {store : Bool} (h : AccessDone s t pa d store)
    (hc : s.CacheWf) : t.CacheWf := by
  obtain ⟨c, heq⟩ := s.useLine_eq pa d store
  exact (hc.useLine pa d store).congr (h.params.trans (by rw [heq])) h.dcache

/-- `t` is `s` after CDC of the line of `pa`, which was not in the cache, and a store of `v` at `pa`: one word of the
line is stored, and Main Memory holds of the line what it held. -/
structure FirstWordStored (s t : State) (pa : PAddr) (v : Word) : Prop where
  mem_wf : memoryWf t.mem
  cacheWf : t.CacheWf
  params : t.params = s.params
  one : ∃ w, t.OneWordStored pa w
  line : t.storedLine pa = s.storedLine pa
  word : readWord s.params.byteOrder t.mem pa.toNat = v

theorem LineCreated.firstWordStored {s t : State} {wa : WAddr} {d : PageDesc}
    (h : LineCreated s t (pageAddress d (byteOfWord wa)) d) (hm : memoryWf s.mem) (hc : s.CacheWf)
    (hnone : s.lineAt (pageAddress d (byteOfWord wa)) = none) (v : Word) :
    FirstWordStored s (t.afterStore wa v d).advance (pageAddress d (byteOfWord wa)) v := by
  have hcT := h.cacheWf hc
  have hmT := h.mem_wf hm
  obtain ⟨hword, -, hafter, -, -⟩ := stores_advance hmT wa v d
  have hdone := (accessDone_afterStore hmT wa v d).of_unchanged (unchanged_advance _) fetchParts_not_mem_stepParts
  obtain ⟨q, hq⟩ := t.afterStore_fields wa v d
  refine ⟨?_, hdone.cacheWf hcT, hdone.params.trans h.params, h.oneWordStored hc hdone.params hafter, ?_, ?_⟩
  · rw [State.advance_mem, hq]
    exact writeWord_wf (State.memoryAfter_wf hmT _) _ _ _
  · have hmiss := State.lineAt_eq_none_iff.mp hnone
    have hkept := hdone.mainLine_self hmT hcT
    rw [← hdone.lineBase] at hkept
    rw [← State.createdMain_of_miss hm hc hmiss, ← h.storedLine hc]
    simpa only [State.storedLine, hdone.lineBase] using hkept
  · rw [← h.params]
    exact hword

/-- FDC of the line then: Main Memory holds the word stored, and of the line's other bytes what it held. -/
theorem FirstWordStored.flushed {s t u : State} {pa : PAddr} {v : Word} (h : FirstWordStored s t pa v)
    (hdrop : ∀ w, (t.cacheSet (setIndex pa)).findWay (t.lineBase pa) = some w → LineDropped t u pa w .load)
    (haligned : pa.toNat % 4 = 0) (hinside : pa.toNat % s.lineBytes + 4 ≤ s.lineBytes) :
    u.lineAt pa = none ∧ readWord s.params.byteOrder u.mem pa.toNat = v ∧
      (∀ a, s.inLine pa a → ¬(pa.toNat ≤ a ∧ a < pa.toNat + 4) →
        readByte u.mem a = (s.storedLine pa).getD (a - (s.lineBase pa).toNat) 0) ∧
      ∀ k < s.lineBytes, (u.storedLine pa).getD k 0 = readByte u.mem ((s.lineBase pa).toNat + k) := by
  obtain ⟨w, hone⟩ := h.one
  have hdropped := hdrop w hone.1
  have hbase := State.lineBase_congr h.params pa
  have hbytes := State.lineBytes_congr h.params
  have hreads : ∀ a, s.inLine pa a → readByte u.mem a = if pa.toNat ≤ a ∧ a < pa.toNat + 4 then readByte t.mem a
      else (s.storedLine pa).getD (a - (s.lineBase pa).toNat) 0 := by
    intro a ha
    rw [← hbase, ← h.line]
    exact hdropped.readByte_of_oneWordStored hone haligned (by rwa [State.inLine, hbase, hbytes])
  refine ⟨State.lineAt_eq_none_iff.mpr (hdropped.findWay_eq_none hone.1 h.cacheWf), ?_, fun a ha hword => ?_,
    fun k hk => ?_⟩
  · rw [← h.word]
    refine readWord_congr_word fun b hb => ?_
    rw [hreads b (State.inLine_add hinside hb.1 hb.2), if_pos hb]
  · rw [hreads a ha, if_neg hword]
  · rw [hdropped.storedLine hone.1 h.cacheWf, State.seenLine, hdropped.lineBase, hbase,
      State.lineBytes_congr hdropped.params, hbytes]
    simp [readBytes, hk]

theorem pageAddress_byteOfWord_mod (d : PageDesc) (wa : WAddr) :
    (pageAddress d (byteOfWord wa)).toNat % 4 = 0 := by
  have hmod := pageAddress_mod d (byteOfWord wa)
  rw [byteOfWord_toNat] at hmod
  omega

/-- Settles O56: the line that CDC makes, and then the same line with one word stored, flushed. -/
theorem createLine : Obligations.CreateLine := by
  refine ⟨?_, ?_⟩
  · intro s ra d hm hc va pa hallow
    obtain ⟨t, hexec, hadvances, hframe, hcreated⟩ := exec_cdc_of_allows hallow
    have hfind := hcreated.findWay hc
    rw [hcreated.lineBase] at hfind
    refine ⟨t, hexec, hadvances, hfind, ⟨_, hcreated.lineAt hc, rfl, rfl, rfl, fun k hk => s.allWords_getLsbD hk⟩,
      ⟨hcreated.order, fun v hv => ⟨hcreated.way_of_find hv, hcreated.way_of_ne hv⟩,
        fun j hj => hcreated.cacheSet_other hj, hcreated.mainAfter hm hc⟩, fun hnone => ?_, fun hlru => ?_, hframe,
      fun a hline hkept => ?_⟩
    · rw [hcreated.storedLine hc, State.createdMain_of_miss hm hc (State.lineAt_eq_none_iff.mp hnone)]
    · exact (hcreated.storedLine hc).trans (State.createdMain_of_lru hm hc hlru)
    · exact (hcreated.readByte_outside hm hline).trans (readByte_evictLine hm _ a hkept)
  · intro s t u v ra rb d hm hc va pa hnone hallowS hallowT hallowU ht hu hv
    obtain ⟨_, hcdc, -, hframeT, hcreated⟩ := exec_cdc_of_allows hallowS
    obtain rfl := Host.Outcome.next.inj (ht.symm.trans hcdc)
    have hrdT : ∀ r, t.rd r = s.rd r := fun r => hframeT.rd (by simp [stepParts, accessParts])
    rw [exec_stWR_of_allows (d := d) rb (by rw [hrdT]; exact hallowT), hrdT, hrdT] at hu
    have hframeU := unchanged_afterStore t (wordAddress (s.rd ra) 0) (s.rd rb) d
    have hfirst := hcreated.firstWordStored hm hc hnone (s.rd rb)
    have hrdU := (hframeU.advance (by simp [accessParts])).rd (r := ra) (by simp [stepParts, accessParts])
    rw [Host.Outcome.next.inj hu] at hfirst hrdU
    have hrdU := hrdU.trans (hrdT ra)
    obtain ⟨x, hfdc, hdrops⟩ := exec_dropsLine (ra := ra) (d := d) hfirst.mem_wf hfirst.cacheWf
      (.inl ⟨rfl, rfl⟩) (by rw [hrdU]; exact hallowU)
    rw [hrdU] at hdrops
    have hdropped := fun w hw => (hdrops.hit w hw).congr (State.advance_sameLines x)
    rw [Host.Outcome.next.inj (hfdc.symm.trans hv)] at hdropped
    exact hfirst.flushed hdropped (pageAddress_byteOfWord_mod d _) (s.word_inside d _)

end Sys2Proof.Machine
end

section
/-! SUPPORT. The instructions that act on other PUs (45_control.md R311, R314, R320, R325, R328): a change of the PUs
that a PuMask names, each by itself, and the step. -/

namespace Sys2Proof.Machine

/-! ### A change of the PUs that a PuMask names (R315) -/

theorem State.forPus_eq (s : State) (ps : List PuId) (f : PU → PU) :
    s.forPus ps f = { s with
      pu0 := (s.forPus ps f).pu0, pu1 := (s.forPus ps f).pu1, pu2 := (s.forPus ps f).pu2
      pu3 := (s.forPus ps f).pu3, event := (s.forPus ps f).event } := by
  unfold forPus
  induction ps generalizing s with
  | nil => rfl
  | cons p ps ih =>
    rw [List.foldl_cons]
    refine (ih (s.setPu p (f (s.pu p)))).trans ?_
    cases p <;> rfl

@[simp] theorem State.forPus_turn (s : State) (ps : List PuId) (f : PU → PU) : (s.forPus ps f).turn = s.turn := by
  rw [forPus_eq]

section
variable (s : State) (m : BitVec 4) (f : PU → PU)

theorem State.forTargets_pu (q : PuId) :
    (s.forPus (targets m) f).pu q = if m.getLsbD q.number then f (s.pu q) else s.pu q := by
  rw [forPus_pu _ _ _ (targets_nodup m)]
  simp only [mem_targets]

theorem State.forTargets_cpu :
    (s.forPus (targets m) f).cpu = if m.getLsbD s.turn.number then f s.cpu else s.cpu := by
  rw [cpu, forPus_turn]
  exact s.forTargets_pu m f s.turn

theorem State.forTargets_advance_cpu :
    (s.forPus (targets m) f).advance.cpu = (if m.getLsbD s.turn.number then f s.cpu else s.cpu).sequential := by
  rw [advance_cpu, forTargets_cpu]

theorem State.forTargets_advance_other {q : PuId} (hq : q ≠ s.turn) :
    (s.forPus (targets m) f).advance.pu q = if m.getLsbD q.number then f (s.pu q) else s.pu q := by
  rw [advance_pu_other _ (by rwa [forPus_turn]), forTargets_pu]

theorem State.forTargets_advance_named {q : PuId} (hq : q ≠ s.turn) (h : m.getLsbD q.number = true) :
    (s.forPus (targets m) f).advance.pu q = f (s.pu q) :=
  (s.forTargets_advance_other m f hq).trans (if_pos h)

theorem State.forTargets_advance_unnamed {q : PuId} (hq : q ≠ s.turn) (h : m.getLsbD q.number = false) :
    (s.forPus (targets m) f).advance.pu q = s.pu q :=
  (s.forTargets_advance_other m f hq).trans (if_neg (ne_true_of_eq_false h))

/-- Of a part of a PU that the step leaves alone, every PU's is that of the PU changed or not. -/
theorem State.forTargets_advance_part {α : Type} (g : PU → α) (hg : ∀ u : PU, g u.sequential = g u) (q : PuId) :
    g ((s.forPus (targets m) f).advance.pu q) = if m.getLsbD q.number then g (f (s.pu q)) else g (s.pu q) := by
  by_cases hq : q = s.turn
  · have hpu : (s.forPus (targets m) f).advance.pu q = (s.forPus (targets m) f).advance.cpu := by
      rw [cpu, advance_turn, forPus_turn, hq]
    rw [hpu, forTargets_advance_cpu, hg, hq]
    exact apply_ite g ..
  · rw [forTargets_advance_other s m f hq]
    exact apply_ite g ..

end

section
variable {s : State} {m : BitVec 4} {f : PU → PU} {ps : List Part}
  (hown : m.getLsbD s.turn.number = true → Unchanged s (s.modCpu f) ps)
include hown

/-- The frame of the change: the issuer's own, if the mask names it, and the other PUs. -/
theorem unchanged_forTargets : Unchanged s (s.forPus (targets m) f) (ps ++ [.otherPus]) := by
  refine Unchanged.of_pus (s.forPus_eq _ _) ?_ fun h => absurd (by simp) h
  rw [s.forTargets_cpu]
  split
  · exact (hown ‹_›).mono (by simp)
  · rw [State.setCpu_self]
    exact (Unchanged.refl s).mono (by simp)

theorem advances_forTargets (hps : Part.counters ∉ ps) : Advances s (s.forPus (targets m) f).advance :=
  advances_of_unchanged (unchanged_forTargets hown) (by simp [hps])

theorem unchanged_forTargets_advance :
    Unchanged s (s.forPus (targets m) f).advance (stepParts ++ ps ++ [.otherPus]) :=
  ((unchanged_forTargets hown).trans (s.forPus_turn _ _) (unchanged_advance _)).mono fun p hp => by
    simp only [List.mem_append] at hp ⊢
    tauto

end

end Sys2Proof.Machine
end

section
/-! PROOFS. Int and Res (45_control.md R311, R314, R315). -/

namespace Sys2Proof.Machine

theorem unchanged_pendRestart (s : State) (b : Bool) :
    Unchanged s (s.modCpu (fun u => { u with pendRestart := b })) [.pendRestart] :=
  unchanged_setCpu (u := { s.cpu with pendRestart := b }) (e := s.event)
    (fun _ _ => rfl) (fun _ _ => rfl) (fun _ => ⟨rfl, rfl⟩) (fun _ => rfl) (fun _ => rfl) (fun _ => rfl)
    (fun _ => rfl) (fun _ => rfl) (fun _ => ⟨rfl, rfl⟩) (fun _ => rfl) (fun _ => rfl) (fun _ => rfl)
    (fun _ => rfl) (fun _ => rfl) (fun h => absurd (List.mem_singleton.mpr rfl) h) (fun _ _ => rfl) (fun _ => rfl)

theorem unchanged_pendInter (s : State) (b : Bool) :
    Unchanged s (s.modCpu (fun u => { u with pendInter := b })) [.pendInter] :=
  unchanged_setCpu (u := { s.cpu with pendInter := b }) (e := s.event)
    (fun _ _ => rfl) (fun _ _ => rfl) (fun _ => ⟨rfl, rfl⟩) (fun _ => rfl) (fun _ => rfl) (fun _ => rfl)
    (fun _ => rfl) (fun _ => rfl) (fun _ => ⟨rfl, rfl⟩) (fun _ => rfl) (fun _ => rfl) (fun _ => rfl)
    (fun _ => rfl) (fun h => absurd (List.mem_singleton.mpr rfl) h) (fun _ => rfl) (fun _ _ => rfl) (fun _ => rfl)

/-- What Int waits for the end of: a PU that its mask names has traps disabled (R311). -/
theorem any_targets_disabled_iff (s : State) (m : BitVec 4) :
    (targets m).any (fun p => !(s.pu p).flagT) = true ↔
      ∃ p : PuId, m.getLsbD p.number = true ∧ (s.pu p).flagT = false := by
  simp only [List.any_eq_true, mem_targets, Bool.not_eq_true']

section
variable {s : State} (hsystem : s.cpu.flagU = false) (m : BitVec 4)
include hsystem

theorem exec_res_of_system : exec (.res m) s =
    .next (s.forPus (targets m) (fun u => { u with pendRestart := true })).advance :=
  if_neg (by simp [hsystem])

theorem exec_int_of_blocked (h : (targets m).any (fun p => !(s.pu p).flagT) = true) :
    exec (.int m) s = .next s.stay :=
  (if_neg (by simp [hsystem])).trans (if_pos h)

theorem exec_int_of_enabled (h : (targets m).any (fun p => !(s.pu p).flagT) = false) :
    exec (.int m) s = .next (s.forPus (targets m) (fun u => { u with pendInter := true })).advance :=
  (if_neg (by simp [hsystem])).trans (if_neg (by simp [h]))

end

/-- Settles O51: both mark the PUs their mask names, Int once no T is clear among them. -/
theorem interruptingInstructions : Obligations.InterruptingInstructions := by
  intro s m hsystem
  refine ⟨⟨_, exec_res_of_system hsystem m, ?_, fun p => ?_, fun p hp => ?_, ?_⟩, fun hall => ?_, fun hsome => ?_⟩
  · exact advances_forTargets (fun _ => unchanged_pendRestart s true) (by simp)
  · rw [s.forTargets_advance_part m _ PU.pendRestart fun _ => rfl]
    cases m.getLsbD p.number <;> rfl
  · rw [s.forTargets_advance_other m _ hp]
    split <;> rfl
  · exact unchanged_forTargets_advance fun _ => unchanged_pendRestart s true
  · have hready : (targets m).any (fun p => !(s.pu p).flagT) = false := by
      rw [← Bool.not_eq_true, any_targets_disabled_iff]
      rintro ⟨p, hp, hT⟩
      exact absurd (hT.symm.trans (hall p hp)) Bool.false_ne_true
    refine ⟨_, exec_int_of_enabled hsystem m hready, ?_, fun p => ?_, fun p hp => ?_, ?_⟩
    · exact advances_forTargets (fun _ => unchanged_pendInter s true) (by simp)
    · rw [s.forTargets_advance_part m _ PU.pendInter fun _ => rfl]
      cases m.getLsbD p.number <;> rfl
    · rw [s.forTargets_advance_other m _ hp]
      split <;> rfl
    · exact unchanged_forTargets_advance fun _ => unchanged_pendInter s true
  · exact ⟨_, exec_int_of_blocked hsystem m ((any_targets_disabled_iff s m).mpr hsome), unchanged_withEvent s _⟩

end Sys2Proof.Machine
end

section
/-! PROOFS. Wait (45_control.md R332, 92_eei_decisions.md D31; L37): the issuer is halted in it, and then every Wait
whose condition is met ends, as in the step of a halted PU. -/

namespace Sys2Proof.Machine

/-- The issuer halted in a Wait of `m`, before any Wait ends. -/
def State.inWait (s : State) (m : BitVec 4) : State :=
  s.modCpu (fun u => { u.withBit bitW true with waitMask := some m })

theorem exec_wait (m : BitVec 4) (s : State) : exec (.wait m) s = .next (s.inWait m).haltedSlot := rfl

theorem unchanged_inWait (s : State) (m : BitVec 4) : Unchanged s (s.inWait m) [.status 25, .waitMask] :=
  unchanged_setCpu (u := { s.cpu.withBit bitW true with waitMask := some m }) (e := s.event)
    (fun _ _ => rfl)
    (fun b hb => s.cpu.withBit_getLsbD true (by decide) fun h => hb (by simp [show b = 25 from Fin.ext h]))
    (fun _ => ⟨rfl, rfl⟩) (fun _ => rfl) (fun _ => rfl) (fun _ => rfl) (fun _ => rfl) (fun _ => rfl)
    (fun _ => ⟨rfl, rfl⟩) (fun _ => rfl) (fun _ => rfl) (fun _ => rfl) (fun h => absurd (by simp) h) (fun _ => rfl)
    (fun _ => rfl) (fun _ _ => rfl) (fun _ => rfl)

section
variable (s : State) (m : BitVec 4)

@[simp] theorem State.inWait_turn : (s.inWait m).turn = s.turn := modCpu_turn ..

@[simp] theorem State.inWait_cpu : (s.inWait m).cpu = { s.cpu.withBit bitW true with waitMask := some m } :=
  modCpu_cpu ..

theorem State.inWait_pu_self : (s.inWait m).pu s.turn = { s.cpu.withBit bitW true with waitMask := some m } :=
  setPu_pu_self ..

theorem State.inWait_pu_other {q : PuId} (hq : q ≠ s.turn) : (s.inWait m).pu q = s.pu q := modCpu_pu_other _ _ hq

theorem State.inWait_cpu_flagW : (s.inWait m).cpu.flagW = true := by
  rw [inWait_cpu]
  exact setBit_same _ _ _ (by decide)

theorem State.inWait_flagW (q : PuId) :
    ((s.inWait m).pu q).flagW = true ↔ q = s.turn ∨ (s.pu q).flagW = true := by
  by_cases hq : q = s.turn
  · subst hq
    rw [inWait_pu_self]
    exact iff_of_true (setBit_same _ _ _ (by decide)) (.inl rfl)
  · rw [inWait_pu_other s m hq]
    simp [hq]

/-- The issuer's own Wait ends at once where the PUs it names are halted. -/
theorem State.inWait_waitMet_self : (s.inWait m).WaitMet s.turn ↔
    m ≠ 0 ∧ ∀ p : PuId, m.getLsbD p.number = true → p = s.turn ∨ (s.pu p).flagW = true := by
  have hmask : ((s.inWait m).pu s.turn).waitMask = some m := by rw [inWait_pu_self]
  simp only [WaitMet, hmask, inWait_flagW, true_or, true_and, Option.some.injEq, exists_eq_left', ← or_assoc, or_self]

/-- Another PU's Wait ends where every PU it names is the issuer or halted, the PU itself being halted. -/
theorem State.inWait_waitMet_other {q : PuId} (hq : q ≠ s.turn) (hwf : (s.pu q).WaitWf) : (s.inWait m).WaitMet q ↔
    ∃ n : BitVec 4, (s.pu q).waitMask = some n ∧ n ≠ 0 ∧
      ∀ p : PuId, n.getLsbD p.number = true → p = s.turn ∨ (s.pu p).flagW = true := by
  simp only [WaitMet, inWait_flagW]
  rw [inWait_pu_other s m hq]
  refine ⟨fun ⟨_, n, hn, hne, hall⟩ => ?_, fun ⟨n, hn, hne, hall⟩ => ?_⟩ <;>
    have hhalted : (s.pu q).flagW = true := hwf (by simp [hn])
  · refine ⟨n, hn, hne, fun p hp => ?_⟩
    obtain rfl | h := hall p hp
    · exact .inr hhalted
    · exact h
  · exact ⟨.inr hhalted, n, hn, hne, fun p hp => .inr (hall p hp)⟩

end

/-- Wait, its condition not met: the issuer stays halted in it. -/
theorem exec_wait_blocks {s : State} {m : BitVec 4} (h : ¬(s.inWait m).WaitMet s.turn) :
    ∃ t, exec (.wait m) s = .next t ∧ t.cpu.flagW = true ∧ t.cpu.waitMask = some m ∧
      t.event = .waiting ∧ Unchanged s t [.status 25, .waitMask, .otherPus] := by
  have hstays : (s.inWait m).haltedSlot.cpu = (s.inWait m).cpu := by
    rw [State.haltedSlot_cpu, State.inWait_turn, if_neg (mt (State.waitEnds_iff _ _).mp h)]
  refine ⟨_, exec_wait m s, ?_, ?_, rfl, ?_⟩
  · rw [hstays, State.inWait_cpu_flagW]
  · rw [hstays, State.inWait_cpu]
  · exact (unchanged_inWait s m).trans (s.inWait_turn m) (unchanged_haltedSlot_of_stays hstays)

/-- Wait, its condition met: the issuer goes on after it. -/
theorem exec_wait_completes {s : State} {m : BitVec 4} (h : (s.inWait m).WaitMet s.turn) :
    ∃ t, exec (.wait m) s = .next t ∧ t.At s.cpu.npc (pcAdd s.cpu.npc 1) false .waiting ∧
      t.cpu.flagW = false ∧ t.cpu.waitMask = none ∧ t.cpu.waitEnded = true ∧
      Unchanged s t (stepParts ++ [.status 25, .waitMask, .waitEnded, .otherPus]) := by
  have hleaves : (s.inWait m).haltedSlot.cpu = (s.inWait m).cpu.leaveWait := by
    rw [State.haltedSlot_cpu, State.inWait_turn, if_pos ((State.waitEnds_iff _ _).mpr h)]
  obtain ⟨hW, hmask, hpc, hnpc, hended, hsem, hrun, hbranch, -⟩ := (s.inWait m).cpu.leaveWait_ends
  rw [← hleaves] at hW hmask hpc hnpc hended hsem hrun hbranch
  rw [State.inWait_cpu] at hpc hnpc
  refine ⟨_, exec_wait m s, ⟨hpc, hnpc, hsem, hrun, hbranch, rfl⟩, hW, hmask, hended, ?_⟩
  exact ((unchanged_inWait s m).trans (s.inWait_turn m) (unchanged_haltedSlot _)).mono (by simp)

/-- Settles O52: which Waits end in `inWait`, and what `haltedSlot` does of them. -/
theorem waitInstruction : Obligations.WaitInstruction := by
  refine ⟨fun s m hblocked => exec_wait_blocks ?_, ?_⟩
  · rw [s.inWait_waitMet_self]
    rintro ⟨hne, hall⟩
    obtain hzero | ⟨p, hp, hother, hW⟩ := hblocked
    · exact hne hzero
    · exact Bool.false_ne_true (hW.symm.trans ((hall p hp).resolve_left hother))
  · intro s m hwf met
    refine ⟨fun hmet => exec_wait_completes ((s.inWait_waitMet_self m).mpr hmet), fun t ht q hq => ?_⟩
    obtain ⟨-, hwait, -⟩ := hwf q
    have hiff : (s.inWait m).waitEnds q = true ↔ met q :=
      (State.waitEnds_iff _ q).trans (s.inWait_waitMet_other m hq hwait)
    obtain rfl := Host.Outcome.next.inj ((exec_wait m s).symm.trans ht)
    rw [State.haltedSlot_pu, s.inWait_pu_other m hq]
    refine ⟨fun hmet => ?_, fun hnot => if_neg (mt hiff.mp hnot)⟩
    rw [if_pos (hiff.mpr hmet)]
    exact ⟨PU.leaveWait_ends _, fun j _ hj => PU.leaveWait_status _ hj⟩

end Sys2Proof.Machine
end

section
/-! PROOFS. Rsm, Send and Strt (45_control.md R320, R325, R328; L22, L30, L38): what each does to one PU that its mask
names, and when it blocks. -/

namespace Sys2Proof.Machine

/-! ### What Rsm, Strt and Send do to one PU -/

theorem PU.resume_of_waiting {u : PU} (hmask : u.waitMask.isSome = true) (hW : u.flagW = true) :
    u.resume = (u.withBit bitA false).leaveWait :=
  if_pos (by rw [hmask, hW]; rfl)

theorem PU.resume_of_not_waiting {u : PU} (h : u.waitMask = none ∨ u.flagW = false) :
    u.resume = u.withBit bitA false :=
  if_neg (by obtain h | h := h <;> simp [h])

section
variable (u : PU)

/-- Of SSCR, Rsm clears A, and W where a Wait ends. -/
theorem PU.resume_flagA : u.resume.flagA = false := by
  have hclear : (u.withBit bitA false).flagA = false := setBit_same _ _ _ (by decide)
  unfold resume
  dsimp only
  split
  · exact (PU.leaveWait_status _ (by decide)).trans hclear
  · exact hclear

theorem PU.resume_status {j : Nat} (hA : j ≠ 4) (hW : j ≠ 25) : u.resume.sscr.getLsbD j = u.sscr.getLsbD j := by
  have hkept : (u.withBit bitA false).sscr.getLsbD j = u.sscr.getLsbD j := u.withBit_getLsbD false (by decide) hA
  unfold resume
  dsimp only
  split
  · exact (PU.leaveWait_status _ hW).trans hkept
  · exact hkept

theorem PU.resume_waitEnds {u} (hmask : u.waitMask.isSome = true) (hW : u.flagW = true) :
    WaitEnds u u.resume := by
  rw [PU.resume_of_waiting hmask hW]
  obtain ⟨hrunning, -⟩ := (u.withBit bitA false).leaveWait_ends
  exact ⟨hrunning, rfl, rfl, rfl, rfl, rfl, rfl, rfl, rfl⟩

/-- Rsm of a halted PU: A cleared, and the Wait that it is blocked in, if any, ended. -/
theorem PU.resume_of_halted (hW : u.flagW = true) :
    u.resume.flagA = false ∧ (∀ j < 32, j ≠ 4 → j ≠ 25 → u.resume.sscr.getLsbD j = u.sscr.getLsbD j) ∧
      (u.waitMask.isSome = true → WaitEnds u u.resume) ∧
      (u.waitMask = none → u.resume.flagW = u.flagW ∧ ({ u.resume with sscr := u.sscr } : PU) = u) := by
  refine ⟨u.resume_flagA, fun j _ hA hW => u.resume_status hA hW, fun hmask => PU.resume_waitEnds hmask hW,
    fun hmask => ?_⟩
  rw [PU.resume_of_not_waiting (.inl hmask)]
  exact ⟨u.withBit_getLsbD _ (by decide) (by decide), rfl⟩

/-- Strt clears A and W, and no other bit of SSCR. -/
theorem PU.start_status (a : HAddr) (j : Nat) :
    (u.start a).sscr.getLsbD j = if j = 25 then false else if j = 4 then false else u.sscr.getLsbD j := by
  show (setBit (setBit u.sscr 4 false) 25 false).getLsbD j = _
  rw [setBit_getLsbD _ _ _ _ (by decide), setBit_getLsbD _ _ _ _ (by decide)]

/-- A write inside intervals spoils those of its register (70_reset_and_hazards.md R398). -/
theorem PU.writeDest_spoiled (d : Dest) (v : Word) : (u.writeDest d v).inflight =
    u.inflight.map (fun e => { e with spoiled := e.spoiled || decide (e.dest = d) }) := by
  rw [PU.writeDest_inflight]
  refine List.map_congr_left fun e _ => ?_
  by_cases h : e.dest = d <;> simp [h]

theorem PU.writeDest_reg (r : Reg) (v : Word) (q : Reg) :
    (u.writeDest (.gpr r) v).reg q = if q = r then v else u.reg q := by
  split
  · rename_i h
    rw [h, PU.writeDest_get]
  · exact PU.writeDest_get_other _ _ ‹_›

end

/-! ### When they block (R320, R325, R328) -/

theorem State.issuerBlocked_iff (s : State) (m : BitVec 4) : s.issuerBlocked m = true ↔
    ∃ p : PuId, m.getLsbD p.number = true ∧
      (p ≠ s.turn ∧ (s.pu p).flagW = false ∨ s.cpu.flagU = true ∧ (s.pu p).flagU = false) := by
  simp only [issuerBlocked, List.any_eq_true, mem_targets, Bool.or_eq_true, Bool.and_eq_true, bne_iff_ne,
    Bool.not_eq_true']

theorem State.issuerBlocked_eq_false {s : State} {m : BitVec 4}
    (h : ∀ p : PuId, m.getLsbD p.number = true → (p = s.turn ∨ (s.pu p).flagW = true) ∧
      (s.cpu.flagU = true → (s.pu p).flagU = true)) : s.issuerBlocked m = false := by
  rw [← Bool.not_eq_true, s.issuerBlocked_iff m]
  rintro ⟨p, hp, hblocks⟩
  obtain ⟨hhalted, huser⟩ := h p hp
  obtain ⟨hother, hW⟩ | ⟨hissuer, hsystem⟩ := hblocks
  · exact Bool.false_ne_true (hW.symm.trans (hhalted.resolve_left hother))
  · exact Bool.false_ne_true (hsystem.symm.trans (huser hissuer))

/-- Waiting at an instruction is no effect. -/
theorem waits_of_stay {i : Instr} {s : State} (h : exec i s = .next s.stay) :
    ∃ t, exec i s = .next t ∧ t.event = .waiting ∧ Unchanged s t [] :=
  ⟨_, h, rfl, unchanged_withEvent s _⟩

section
variable {s : State} (rb : Reg) {m : BitVec 4}

theorem exec_rsm_of_ready (h : s.issuerBlocked m = false) :
    exec (.rsm m) s = .next (s.forPus (targets m) PU.resume).advance :=
  if_neg (by simp [h])

theorem exec_send_of_ready (h : s.issuerBlocked m = false) : exec (.send rb m) s =
    .next (s.forPus (targets m) (fun u => u.writeDest (.gpr (Config.sendDest rb)) (s.rd rb))).advance :=
  if_neg (by simp [h])

theorem exec_strt_of_ready (hself : m.getLsbD s.turn.number = false) (h : s.issuerBlocked m = false) :
    exec (.strt rb m) s = .next (s.forPus (targets m) (fun u => u.start (addressOf (s.rd rb)))).advance :=
  (if_neg (ne_true_of_eq_false hself)).trans (if_neg (by simp [h]))

theorem exec_strt_of_blocked (hself : m.getLsbD s.turn.number = false) (h : s.issuerBlocked m = true) :
    exec (.strt rb m) s = .next s.stay :=
  (if_neg (ne_true_of_eq_false hself)).trans (if_pos h)

/-- Rsm of a running issuer clears the issuer's A where its mask names it. -/
theorem unchanged_resume (hW : s.cpu.flagW = false) : Unchanged s (s.modCpu PU.resume) [.status 4] := by
  have hown : s.modCpu PU.resume = s.modCpu (fun u => u.withBit bitA false) :=
    congrArg s.setCpu (PU.resume_of_not_waiting (.inr hW))
  rw [hown]
  exact unchanged_withBit s 4 false

end

/-- Settles O53: `forPus` makes the change of each target, and the issuer's part of it is its frame. -/
theorem rendezvousInstructions : Obligations.RendezvousInstructions := by
  refine ⟨fun s rb m hblocked => ?_, fun s rb m hW htargets => ?_⟩
  · have hblocked : s.issuerBlocked m = true := (s.issuerBlocked_iff m).mpr hblocked
    exact ⟨waits_of_stay (if_pos hblocked), waits_of_stay (if_pos hblocked),
      fun hself => waits_of_stay (exec_strt_of_blocked rb hself hblocked)⟩
  have hready := State.issuerBlocked_eq_false htargets
  refine ⟨?_, fun hself => ?_, ?_⟩
  · refine ⟨_, exec_rsm_of_ready hready, advances_forTargets (fun _ => unchanged_resume hW) (by simp),
      unchanged_forTargets_advance fun _ => unchanged_resume hW, ?_, fun p hp => ⟨fun hnot => ?_, fun hin => ?_⟩⟩
    · rw [s.forTargets_advance_cpu m PU.resume]
      cases m.getLsbD s.turn.number
      · exact (Bool.and_true _).symm
      · exact (PU.resume_flagA _).trans (Bool.and_false _).symm
    · exact s.forTargets_advance_unnamed m _ hp hnot
    · rw [s.forTargets_advance_named m _ hp hin]
      exact PU.resume_of_halted _ ((htargets p hin).1.resolve_left hp)
  · have hframe : m.getLsbD s.turn.number = true →
        Unchanged s (s.modCpu fun u => u.start (addressOf (s.rd rb))) [] := fun h => by simp [hself] at h
    refine ⟨_, exec_strt_of_ready rb hself hready, advances_forTargets hframe (by simp),
      (unchanged_forTargets_advance hframe).mono (by simp), fun p hp => ⟨fun hnot => ?_, fun hin => ?_⟩⟩
    · exact s.forTargets_advance_unnamed m _ hp hnot
    · rw [s.forTargets_advance_named m _ hp hin, ← addressOf_eq_setWidth]
      refine ⟨PU.start_status _ _ 4, PU.start_status _ _ 25, fun j _ hA hW => ?_, rfl, rfl, rfl, rfl, rfl, rfl, rfl⟩
      rw [PU.start_status, if_neg hW, if_neg hA]
  · have hframe := unchanged_wr s (Config.sendDest rb) (s.rd rb)
    refine ⟨_, exec_send_of_ready rb hready, advances_forTargets (fun _ => hframe) (by simp),
      (unchanged_forTargets_advance fun _ => hframe).mono (by simp), fun hin => ?_, fun hnot => ?_, fun p => ?_,
      fun p hp => ⟨fun hnot => ?_, fun r => ?_, ?_⟩⟩
    · rw [s.forTargets_advance_cpu m _, if_pos hin]
      exact PU.writeDest_get _ _ _
    · rw [s.forTargets_advance_cpu m _, if_neg (ne_true_of_eq_false hnot)]
      rfl
    · rw [s.forTargets_advance_part m _ PU.inflight fun _ => rfl, PU.writeDest_spoiled]
    · exact s.forTargets_advance_unnamed m _ hp hnot
    · rw [s.forTargets_advance_other m _ hp]
      by_cases hin : m.getLsbD p.number = true
      · rw [if_pos hin, PU.writeDest_reg]
        simp only [hin, true_and]
      · rw [if_neg hin, if_neg fun h => hin h.1]
    · rw [s.forTargets_advance_other m _ hp]
      split <;> rfl

end Sys2Proof.Machine
end

section
/-! PROOFS. SetM, ClrM and TstM (45_control.md R310, R316, R326, 42_compare_branch.md R242), and Trap and RtI
(45_control.md R322, R330; L28). -/

namespace Sys2Proof.Machine

/-! ### Mode bits -/

theorem PU.modeBitDenied_of_allowed {u : PU} {n : Fin 16}
    (h : n.val ∈ [0, 1, 2, 3, 4] ∨ n.val ∈ [10, 11, 12, 13] ∧ u.flagU = false) : u.modeBitDenied n = false := by
  have hlow : ∀ n : Fin 16, n.val ∈ [0, 1, 2, 3, 4] → modeBitReserved n = false ∧ ¬8 ≤ n.val := by decide
  have hhigh : ∀ n : Fin 16, n.val ∈ [10, 11, 12, 13] → modeBitReserved n = false := by decide
  unfold modeBitDenied
  obtain h | ⟨h, hsystem⟩ := h
  · obtain ⟨hdefined, hany⟩ := hlow n h
    rw [hdefined, decide_eq_false hany, Bool.and_false]
    rfl
  · rw [hhigh n h, hsystem]
    rfl

theorem PU.modeBitDenied_of_denied {u : PU} {n : Fin 16}
    (h : n.val ∈ [5, 6, 7, 8, 9, 14, 15] ∨ 8 ≤ n.val ∧ u.flagU = true) : u.modeBitDenied n = true := by
  unfold modeBitDenied
  obtain h | ⟨hpriv, huser⟩ := h
  · rw [modeBitReserved, List.contains_iff_mem.mpr h, Bool.true_or]
  · rw [huser, decide_eq_true hpriv, Bool.true_and, Bool.or_true]

/-- The bit named is written, and nothing else (R310, R326). -/
theorem completes_of_withBit {i : Instr} {s : State} {n : Fin 16} {b : Bool}
    (h : exec i s = .next (s.modCpu (fun u => u.withBit n.val b)).advance) :
    Completes i s [.status (Fin.castLE (by decide) n)] (fun t => t.cpu.sscr.getLsbD n.val = b) := by
  refine completes_of_advance h (unchanged_withBit s (Fin.castLE (by decide) n) b) (by simp) ?_
  rw [State.advance_cpu, State.modCpu_cpu]
  exact setBit_same _ _ _ (by omega)

theorem setCarry_getLsbD (w : Word) (c : Bool) (j : Nat) :
    (setBit (setBit (setBit (setBit w 19 c) 20 false) 21 false) 22 false).getLsbD j =
      if j = 22 then false else if j = 21 then false else if j = 20 then false else if j = 19 then c
      else w.getLsbD j := by
  simp only [setBit_getLsbD, Nat.reduceLT]

theorem unchanged_setCarry (s : State) (c : Bool) : Unchanged s (s.setCarry c) carryParts :=
  unchanged_mapStatus (g := fun w => setBit (setBit (setBit (setBit w 19 c) 20 false) 21 false) 22 false)
    fun b hb => by
      have hout : b.val ≠ 22 ∧ b.val ≠ 21 ∧ b.val ≠ 20 ∧ b.val ≠ 19 := by
        revert b
        decide
      obtain ⟨h22, h21, h20, h19⟩ := hout
      rw [setCarry_getLsbD, if_neg h22, if_neg h21, if_neg h20, if_neg h19]

/-- TstM's carries: the bit in C0, and none in the others (R242). -/
theorem completes_of_setCarry {i : Instr} {s : State} {c : Bool} (h : exec i s = .next (s.setCarry c).advance) :
    Completes i s carryParts (fun t =>
      t.cpu.carry 0 = c ∧ t.cpu.carry 1 = false ∧ t.cpu.carry 2 = false ∧ t.cpu.carry 3 = false) := by
  refine completes_of_advance h (unchanged_setCarry s c) (by simp [carryParts]) ?_
  rw [State.advance_cpu, State.setCarry_cpu]
  exact ⟨setCarry_getLsbD _ c 19, setCarry_getLsbD _ c 20, setCarry_getLsbD _ c 21, setCarry_getLsbD _ c 22⟩

theorem exec_setM_of_allowed {s : State} {n : Fin 16} (h : s.cpu.modeBitDenied n = false) :
    exec (.setM n) s = .next (s.modCpu (fun u => u.withBit n.val true)).advance :=
  if_neg (ne_true_of_eq_false h)

theorem exec_tstM_of_allowed {s : State} {n : Fin 16} (h : s.cpu.modeBitDenied n = false) :
    exec (.tstM n) s = .next (s.setCarry (s.cpu.savedStatus.getLsbD n.val)).advance :=
  if_neg (ne_true_of_eq_false h)

/-- Settles O47: `modeBitDenied` decides between the trap and the one bit, or the carries, written. -/
theorem modeBits : Obligations.ModeBits := by
  refine fun s n => ⟨fun hallowed => ?_, fun hdenied => ?_⟩
  · have hmay := PU.modeBitDenied_of_allowed hallowed
    exact ⟨completes_of_withBit (exec_setM_of_allowed hmay), completes_of_withBit (exec_clrM_of_allowed hmay),
      completes_of_setCarry (exec_tstM_of_allowed hmay)⟩
  · have hno := PU.modeBitDenied_of_denied hdenied
    exact ⟨raisesOnly_of_illegal (if_pos hno), raisesOnly_of_illegal (if_pos hno),
      raisesOnly_of_illegal (if_pos hno)⟩

/-! ### Trap and RtI -/

section
variable {s : State} (hsystem : s.cpu.flagU = false) (hT : s.cpu.flagT = false)
include hsystem hT

theorem exec_rtI_of_first (hfirst : s.cpu.rti1 = false) (hplace : s.cpu.misplaced = false) :
    exec .rtI s = .next { s.modCpu PU.returnFirst with event := .finished } := by
  simp [exec, execRtI, hsystem, hT, hfirst, hplace]

theorem exec_rtI_of_second (hsecond : s.cpu.rti1 = true) :
    exec .rtI s = .next { s.modCpu PU.returnSecond with event := .finished } := by
  simp [exec, execRtI, hsystem, hT, hsecond]

end

theorem unchanged_returnFirst (s : State) (e : StepEvent) :
    Unchanged s { s.modCpu PU.returnFirst with event := e } (stepParts ++ [.queue, .returnMark]) :=
  unchanged_setCpu (u := s.cpu.returnFirst) (fun _ _ => rfl) (fun _ _ => rfl)
    (fun h => absurd (by simp [stepParts]) h) (fun _ => rfl) (fun _ => rfl) (fun _ => rfl) (fun _ => rfl)
    (fun _ => rfl) (fun h => absurd (by simp) h) (fun h => absurd (by simp) h)
    (fun h => absurd (by simp [stepParts]) h) (fun h => absurd (by simp [stepParts]) h) (fun _ => rfl) (fun _ => rfl)
    (fun _ => rfl) (fun _ _ => rfl) (fun _ => rfl)

theorem unchanged_returnSecond (s : State) (e : StepEvent) :
    Unchanged s { s.modCpu PU.returnSecond with event := e }
      (stepParts ++ [.returnMark] ++ (List.finRange 32).map Part.status) :=
  unchanged_setCpu (u := s.cpu.returnSecond) (fun _ _ => rfl)
    (fun b hb => absurd (by simp [List.mem_finRange]) hb)
    (fun h => absurd (by simp [stepParts]) h) (fun _ => rfl) (fun _ => rfl) (fun _ => rfl) (fun _ => rfl)
    (fun _ => rfl) (fun _ => ⟨rfl, rfl⟩) (fun h => absurd (by simp) h)
    (fun h => absurd (by simp [stepParts]) h) (fun h => absurd (by simp [stepParts]) h) (fun _ => rfl) (fun _ => rfl)
    (fun _ => rfl) (fun _ _ => rfl) (fun _ => rfl)

/-- SSCR after the second RtI: Status_Save, with W clear (R322). -/
theorem PU.returnSecond_status (u : PU) (j : Nat) :
    u.returnSecond.sscr.getLsbD j = if j = 25 then false else u.statusSave.getLsbD j :=
  setBit_getLsbD _ _ _ _ (by decide)

theorem State.modCpu_withEvent_cpu (s : State) (f : PU → PU) (e : StepEvent) :
    ({ s.modCpu f with event := e } : State).cpu = f s.cpu :=
  (State.cpu_with_event ..).trans (State.modCpu_cpu ..)

theorem State.AtEntry.withEvent {t : State} {p : PuId} {n : Nat} (h : t.AtEntry p n) (e : StepEvent) :
    ({ t with event := e } : State).AtEntry p n := by
  unfold AtEntry
  rw [pu_with_event]
  exact h

theorem State.Saved.withEvent {t : State} {p : PuId} {status : Word} {head tail : HAddr}
    (h : t.Saved p status head tail) (e : StepEvent) :
    ({ t with event := e } : State).Saved p status head tail := by
  unfold Saved
  rw [pu_with_event]
  exact h

/-- Trap enters its vector, or Machine Check, with the pair after it saved (R330). -/
theorem exec_trap_enters (s : State) (num : Fin 16) :
    ∃ t, exec (.trap num) s = .next t ∧ Unchanged s t entryParts ∧
      (if s.cpu.flagT then
        t.AtEntry s.turn num.val ∧ t.Saved s.turn s.cpu.sscr s.cpu.npc (pcAdd s.cpu.npc 1)
       else t.AtEntry s.turn 0x1E) := by
  have hvector : ∀ k : Fin 32, k.val < 16 → k ≠ numEventCounter ∧ k ≠ numExternal := by decide
  obtain ⟨hcounter, hexternal⟩ := hvector (Fin.castLE (by decide) num) num.isLt
  have hentry := s.raiseAt_atEntry (Fin.castLE (by decide) num) (s.cpu.npc, pcAdd s.cpu.npc 1)
  have hframe := unchanged_raiseAt s (s.cpu.npc, pcAdd s.cpu.npc 1) hcounter hexternal
  refine ⟨_, rfl, ?_, ?_⟩
  · exact (hframe.trans (hframe.turn (by simp [entryParts])) (unchanged_withEvent _ _)).mono (by simp)
  cases hT : s.cpu.flagT with
  | false =>
    rw [hT] at hentry
    exact hentry.withEvent _
  | true =>
    rw [hT] at hentry
    exact ⟨hentry.withEvent _, (State.raiseAt_saved _ _ hT).withEvent _⟩

/-- Settles O48: the entry of a trap, and the two delayed transfers of a return. -/
theorem trapAndReturnInstructions : Obligations.TrapAndReturnInstructions := by
  refine ⟨exec_trap_enters, fun s hsystem hT => ⟨fun hfirst hplace => ?_, fun hsecond => ?_⟩⟩
  · have hcpu := s.modCpu_withEvent_cpu PU.returnFirst .finished
    refine ⟨_, exec_rtI_of_first hsystem hT hfirst hplace, ?_, ?_, ?_, ?_, unchanged_returnFirst s _⟩
    · unfold Returns State.At
      rw [hcpu]
      exact ⟨rfl, rfl, rfl, rfl, rfl, rfl⟩
    all_goals
      rw [hcpu]
      rfl
  · have hcpu := s.modCpu_withEvent_cpu PU.returnSecond .finished
    refine ⟨_, exec_rtI_of_second hsystem hT hsecond, ?_, ?_, ?_, fun j _ hj => ?_, unchanged_returnSecond s _⟩
    · unfold Returns State.At
      rw [hcpu]
      exact ⟨rfl, rfl, rfl, rfl, rfl, rfl⟩
    · rw [hcpu]
      rfl
    · rw [hcpu]
      exact PU.returnSecond_status _ 25
    · rw [hcpu, PU.returnSecond_status, if_neg hj]

end Sys2Proof.Machine
end

section
/-! PROOFS. ITLB and RDTX (45_control.md R312, R313, 20_memory.md R97; L5, L6, L23). -/

namespace Sys2Proof.Machine

theorem unchanged_withTlb (s : State) (l : List TlbEntry) : Unchanged s { s with tlb := l } [.tlb] :=
  unchanged_memory (fun h => absurd (List.mem_singleton.mpr rfl) h) (fun _ => rfl) (fun _ _ => rfl) (fun _ => rfl)

/-- An empty TLB answers nothing, so that every translation walks the page table (20_memory.md R97). -/
theorem State.pageOf_of_empty {s : State} (h : s.tlb = []) (va : VAddr) :
    s.pageOf va = Config.pageWalk s.s15 s.mem va := by
  simp [pageOf, tlbFind, h]

section
variable {s : State} (hsystem : s.cpu.flagU = false)
include hsystem

theorem exec_itlb_of_system : exec .itlb s = .next ({ s with tlb := [] } : State).advance :=
  if_neg (ne_true_of_eq_false hsystem)

theorem exec_rdtx_of_system (rb ra : Reg) :
    exec (.rdtx rb ra) s = .next (s.wr rb (s.tagWord (s.rd ra))).advance :=
  if_neg (ne_true_of_eq_false hsystem)

end

/-- The entry that an index names: its set in bits 7:4, its association in bits 1:0 (R313). -/
theorem State.tagWord_of_index {s : State} {x : Word} {set : Fin 16} {way : Fin 4}
    (hset : set.val = x.toNat / 16 % 16) (hway : way.val = x.toNat % 4) :
    let e := (s.cacheSet set).way way
    s.tagWord x = Config.tagFormat e.base e.valid e.readOnly e.dirty e.user := by
  have hs : (x.extractLsb' 4 4).toFin = set := by
    ext
    simp [hset, Nat.shiftRight_eq_div_pow]
  have hw : (x.extractLsb' 0 2).toFin = way := by
    ext
    simp [hway]
  rw [State.tagWord, hs, hw]

/-- Settles O54: the walk of an empty TLB, and the entry that `tagWord` reads. -/
theorem translationAndTagAccess : Obligations.TranslationAndTagAccess := by
  refine fun s hsystem => ⟨?_, fun rb ra set way hset hway => ?_⟩
  · refine completes_of_advance (exec_itlb_of_system hsystem) (unchanged_withTlb s []) (by simp) fun va => ?_
    rw [State.pageOf_of_empty (by simp), State.advance_s15, State.advance_mem]
  · refine writes_of_wr_advance ?_
    rw [exec_rdtx_of_system hsystem, State.tagWord_of_index hset hway]

end Sys2Proof.Machine
end

section
/-! SUPPORT. The shared operations keep every PU but the executing one (10_state.md R34): each said once. -/

namespace Sys2Proof.Machine

/-- From `s` to `t` the same PU executes, and every other PU keeps everything. -/
structure OthersKept (s t : State) : Prop where
  turn : t.turn = s.turn
  pus : ∀ q, q ≠ s.turn → t.pu q = s.pu q

theorem OthersKept.refl (s : State) : OthersKept s s := ⟨rfl, fun _ _ => rfl⟩

/-- A frame that names neither the other PUs nor the turn keeps them. -/
theorem OthersKept.of_unchanged {s t : State} {ps : List Part} (h : Unchanged s t ps)
    (hps : ∀ p ∈ [Part.otherPus, .model], p ∉ ps) : OthersKept s t :=
  ⟨h.turn (hps _ (by simp)), h .otherPus (hps _ (by simp))⟩

section
variable {s t : State} (h : OthersKept s t)
include h

/-! ### Operations on the executing PU, and on the chip -/

theorem OthersKept.trans {v : State} (h' : OthersKept t v) : OthersKept s v :=
  ⟨h'.turn.trans h.turn, fun q hq => (h'.pus q (by rwa [h.turn])).trans (h.pus q hq)⟩

theorem OthersKept.of_same {v : State} (hturn : v.turn = t.turn) (hpu : ∀ q, v.pu q = t.pu q) : OthersKept s v :=
  h.trans ⟨hturn, fun q _ => hpu q⟩

theorem OthersKept.modCpu (f : PU → PU) : OthersKept s (t.modCpu f) :=
  h.trans ⟨State.modCpu_turn .., fun _ hq => State.modCpu_pu_other t f hq⟩

theorem OthersKept.withEvent (e : StepEvent) : OthersKept s { t with event := e } :=
  h.of_same rfl (State.pu_with_event t e)

theorem OthersKept.wr (r : Reg) (v : Word) : OthersKept s (t.wr r v) := h.modCpu _

theorem OthersKept.advance : OthersKept s t.advance := (h.modCpu _).withEvent _

theorem OthersKept.advanceExtended : OthersKept s t.advanceExtended := (h.modCpu _).withEvent _

theorem OthersKept.advanceBranch : OthersKept s t.advanceBranch := h.advance.modCpu _

theorem OthersKept.stay : OthersKept s t.stay := h.withEvent _

theorem OthersKept.raiseAt (n : Fin 32) (sv : HAddr × HAddr) : OthersKept s (t.raiseAt n sv) := by
  refine h.trans ⟨?_, fun q hq => State.enter_pu_other t _ _ _ hq⟩
  unfold State.raiseAt
  rw [State.enter_eq]
  exact State.setPu_turn ..

theorem OthersKept.raise (n : Fin 32) : OthersKept s (t.raise n) := h.raiseAt _ _

theorem OthersKept.raiseIllegal : OthersKept s t.raiseIllegal := h.raise _

theorem OthersKept.takeBranch (a : HAddr) : OthersKept s (t.takeBranch a) := by
  unfold State.takeBranch
  dsimp only
  split
  · exact ((h.modCpu _).raise _).withEvent _
  · exact (h.modCpu _).withEvent _

theorem OthersKept.dataFault (f : MemFault) (ptr : Word) : OthersKept s (t.dataFault f ptr) := (h.modCpu _).raise _

/-! ### Accesses -/

theorem OthersKept.fillTlb (va : VAddr) : OthersKept s (t.fillTlb va) := by
  obtain ⟨l, hl⟩ := t.fillTlb_eq va
  rw [hl]
  exact h.of_same rfl (State.pu_with_tlb t l)

/-- A change of memory, the TLB, the caches and the record of stores. -/
theorem OthersKept.withMemory (l : List TlbEntry) (c : Vector CacheSet 16) (m : Memory) (i : List FetchLine)
    (q : List StoredHalf) : OthersKept s { t with tlb := l, dcache := c, mem := m, icache := i, stored := q } :=
  h.of_same rfl fun p => by cases p <;> rfl

theorem OthersKept.loadWord {wa : WAddr} {v : Word} {u : State} (hload : t.loadWord wa = .ok (v, u)) :
    OthersKept s u := by
  obtain ⟨pa, d, l, c, -, -, rfl⟩ | ⟨-, -, l, rfl⟩ := State.loadWord_ok hload
  · exact h.withMemory l c _ t.icache t.stored
  · exact h.withMemory l t.dcache t.mem t.icache t.stored

theorem OthersKept.storeWord {wa : WAddr} {v : Word} {u : State} (hstore : t.storeWord wa v = .ok u) :
    OthersKept s u := by
  obtain ⟨pa, d, l, c, -, rfl⟩ | ⟨-, l, rfl⟩ := State.storeWord_ok hstore
  · exact h.withMemory l c _ t.icache _
  · exact h.withMemory l t.dcache t.mem t.icache t.stored

theorem OthersKept.loadByte {va : VAddr} {b : Byte} {u : State} (hload : t.loadByte va = .ok (b, u)) :
    OthersKept s u := by
  obtain ⟨pa, d, l, c, -, -, rfl⟩ | ⟨-, -, l, rfl⟩ := State.loadByte_ok hload
  · exact h.withMemory l c _ t.icache t.stored
  · exact h.withMemory l t.dcache t.mem t.icache t.stored

theorem OthersKept.storeByte {va : VAddr} {b : Byte} {u : State} (hstore : t.storeByte va b = .ok u) :
    OthersKept s u := by
  obtain ⟨pa, d, l, c, -, rfl⟩ | ⟨-, l, rfl⟩ := State.storeByte_ok hstore
  · exact h.withMemory l c _ t.icache _
  · exact h.withMemory l t.dcache t.mem t.icache t.stored

theorem OthersKept.loadInto (rb : Reg) (wa : WAddr) {adv : State → State}
    (hadv : ∀ u, OthersKept s u → OthersKept s (adv u)) : OthersKept s (t.loadInto rb wa adv) := by
  unfold State.loadInto
  split
  · exact h.dataFault _ _
  · exact hadv _ ((h.loadWord ‹_›).wr _ _)

theorem OthersKept.storeFrom (wa : WAddr) (v : Word) {adv : State → State}
    (hadv : ∀ u, OthersKept s u → OthersKept s (adv u)) : OthersKept s (t.storeFrom wa v adv) := by
  unfold State.storeFrom
  split
  · exact h.dataFault _ _
  · exact hadv _ (h.storeWord ‹_›)

theorem OthersKept.setSems (cn : Bool) (v : BitVec 8) : OthersKept s (t.setSems cn v) := by
  unfold State.setSems
  split <;> exact h.of_same rfl fun p => by cases p <;> rfl

theorem OthersKept.endDirect (cn : Bool) (disp : Nat) (b : Bool) : OthersKept s (t.endDirect cn disp b) := by
  unfold State.endDirect
  split
  · exact (h.setSems _ _).advance
  · exact h.advance

theorem OthersKept.freeze (cn : Bool) (disp : Nat) (b : Bool) : OthersKept s (t.freeze cn disp b) :=
  (h.modCpu _).stay

theorem OthersKept.cacheOp (a : WAddr) (k : AccessKind) {op : State → PAddr → PageDesc → State}
    (hop : ∀ u pa d, OthersKept s u → OthersKept s (op u pa d)) : OthersKept s (t.cacheOp a k op) := by
  obtain ⟨f, heq⟩ | heq | heq | ⟨pa, d, heq⟩ := t.cacheOp_cases a k op <;> rw [heq]
  · exact h.dataFault _ _
  · exact h.advance
  · exact (h.fillTlb _).advance
  · exact (hop _ _ _ (h.fillTlb _)).advance

/-! ### The operations of the cache instructions (44_cache_control.md R290 to R299) -/

/-- A change of memory and the data cache. -/
theorem OthersKept.of_cache {v : State} (hv : ∃ m c, v = { t with mem := m, dcache := c }) : OthersKept s v := by
  obtain ⟨m, c, rfl⟩ := hv
  exact h.withMemory t.tlb c m t.icache t.stored

theorem OthersKept.noteWritten (pa : PAddr) : OthersKept s (t.noteWritten pa) :=
  h.withMemory t.tlb t.dcache t.mem t.icache _

theorem OthersKept.dropFetch (pa : PAddr) : OthersKept s (t.dropFetch pa) :=
  h.withMemory t.tlb t.dcache t.mem _ _

theorem OthersKept.dropAllFetch : OthersKept s t.dropAllFetch :=
  h.withMemory t.tlb t.dcache t.mem _ _

theorem OthersKept.prefetchInst (pa : PAddr) : OthersKept s (t.prefetchInst pa) :=
  h.trans (.of_unchanged (unchanged_prefetchInst t pa) (by simp))

/-! ### Runs of LdM and StM (40_load_store_move.md R165, R175) -/

theorem OthersKept.freeOverlap (x : Transfer) : OthersKept s (t.freeOverlap x) := by
  have hrun : ∀ (k : Nat) (u : State), OthersKept s u → OthersKept s (u.freeRun k) := by
    intro k
    induction k with
    | zero => exact fun _ hu => hu
    | succ k ih => exact fun u hu => ih _ (hu.wr _ _)
  unfold State.freeOverlap
  split
  · exact hrun _ t h
  · exact h

theorem OthersKept.faultAddress (ra : Reg) (a : Word) (n k : Nat) : OthersKept s (t.faultAddress ra a n k) := by
  unfold State.faultAddress
  split
  · exact h.wr _ _
  · exact h

theorem OthersKept.transferOne (x : Transfer) : OthersKept s (t.transferOne x) := by
  unfold State.transferOne
  split
  · unfold State.loadTransfer
    dsimp only
    split
    · exact ((((h.modCpu _).modCpu _).faultAddress ..).freeOverlap x).dataFault _ _
    · rename_i v u hload
      have hloaded : OthersKept s (u.wr x.next v) := ((h.modCpu _).loadWord hload).wr _ _
      split
      · exact (((hloaded.wr _ _).freeOverlap x).modCpu _).advance
      · exact (hloaded.modCpu _).stay
  · unfold State.storeTransfer
    dsimp only
    split
    · exact (((((h.wr _ _).modCpu _).freeOverlap x).modCpu _)).dataFault _ _
    · rename_i u hstore
      have hstored : OthersKept s u := ((h.wr _ _).modCpu _).storeWord hstore
      split
      · exact (hstored.freeOverlap x).advance
      · exact (hstored.modCpu _).stay

/-! ### Results of arithmetic and of field instructions, and special registers -/

theorem OthersKept.commitAdd (rb : Reg) (r : Word × Flags) : OthersKept s (t.commitAdd rb r) := by
  have hstored : OthersKept s ((t.wr rb r.1).setFlags r.2) := (h.wr _ _).modCpu _
  unfold State.commitAdd
  dsimp only
  split
  · split
    · exact hstored.raise _
    · exact h.raise _
  · exact hstored.advance

theorem OthersKept.commitField (r : Reg) (f : Fin 32 → Fin 32 → Word) : OthersKept s (t.commitField r f) := by
  unfold State.commitField
  split <;> exact ((h.wr _ _).modCpu _).advance

theorem OthersKept.writeSpecial {v : State} {sp : SReg} {x : Word} (hwrite : t.writeSpecial sp x = some v) :
    OthersKept s v := by
  cases sp <;> cases hwrite
  case mask | remainder | product | statusSave | trapArgument | pcSaveQueue => exact h.modCpu _
  case window =>
    split
    · exact (h.setSems _ _).of_same rfl (State.pu_with_window1 _ _)
    · exact h.setSems _ _
  all_goals exact h.of_same rfl fun p => by cases p <;> rfl

end

end Sys2Proof.Machine
end

section
/-! PROOFS. What one PU's instruction can change of another PU (45_control.md R311, R314, R320, R325, R328, R332):
nothing, unless the instruction is Int, Res, Rsm, Send, Strt or Wait. -/

namespace Sys2Proof.Machine

/-! ### The instructions that change no other PU -/

/-- The instructions that act on other PUs. -/
def interPuForms : List Form := [.int, .res, .rsm, .send, .strt, .wait]

/-- Every other instruction is made of operations on the executing PU and on what the PUs share. -/
theorem exec_othersKept {i : Instr} {s t : State} (hi : i.form ∉ interPuForms) (h : exec i s = .next t) :
    OthersKept s t := by
  have hs := OthersKept.refl s
  cases i with
  | int m | res m | rsm m | send rb m | strt rb m | wait m => simp [Instr.form, interPuForms] at hi
  | cdc ra =>
    cases h
    exact hs.cacheOp _ _ fun u pa d hu => hu.of_cache ⟨_, _, u.createLine_eq pa d⟩
  | fdc ra =>
    cases h
    exact hs.cacheOp _ _ fun u pa _ hu => (hu.of_cache (u.flushLine_eq pa)).noteWritten pa
  | idc ra =>
    cases h
    exact hs.cacheOp _ _ fun u pa _ hu => hu.of_cache (u.invalidateLine_eq pa)
  | udc ra =>
    cases h
    exact hs.cacheOp _ _ fun u pa _ hu => (hu.of_cache ⟨u.mem, u.updateLine_eq pa⟩).noteWritten pa
  | vdc ra =>
    cases h
    exact hs.cacheOp _ _ fun u pa _ hu => hu.of_cache ⟨u.mem, u.validateLine_eq pa⟩
  | pdc ra =>
    cases h
    exact hs.cacheOp _ _ fun u pa d hu => hu.of_cache (u.prefetchData_eq pa d)
  | iic ra =>
    cases h
    exact hs.cacheOp _ _ fun u pa _ hu => hu.dropFetch pa
  | picA ra | picR disp =>
    cases h
    exact hs.cacheOp _ _ fun u pa _ hu => hu.prefetchInst pa
  | ldWB rb base disp | ldWR rb ra =>
    cases h
    exact hs.loadInto _ _ fun _ hu => hu.advance
  | stWB rb base disp | stWR rb base =>
    cases h
    exact hs.storeFrom _ _ fun _ hu => hu.advance
  | ldWD rb disp =>
    rw [exec_ldWD] at h
    split at h <;> cases h
    · exact hs.freeze _ _ _
    · exact hs.loadInto _ _ fun _ hu => hu.endDirect _ _ _
  | stWD rb disp =>
    rw [exec_stWD] at h
    split at h <;> cases h
    · exact hs.freeze _ _ _
    · exact hs.storeFrom _ _ fun _ hu => hu.endDirect _ _ _
  | ldWE rb ra disp =>
    rw [exec_ldWE] at h
    split at h <;> cases h
    exact hs.loadInto _ _ fun _ hu => hu.advanceExtended
  | stWE rb base disp =>
    rw [exec_stWE] at h
    split at h <;> cases h
    exact hs.storeFrom _ _ fun _ hu => hu.advanceExtended
  | ldB d p =>
    have hstepped := hs.wr p (nextBytePtr (s.rd p))
    cases hload : (s.wr p (nextBytePtr (s.rd p))).loadByte (byteOfPointer (s.rd p)) with
    | error f =>
      rw [exec_ldB_of_fault hload] at h
      cases h
      exact hstepped.dataFault _ _
    | ok r =>
      rw [exec_ldB_of_ok hload] at h
      cases h
      exact ((hstepped.loadByte hload).wr _ _).advance
  | stB d p =>
    have hstepped := hs.wr p (nextBytePtr (s.rd p))
    cases hstore : (s.wr p (nextBytePtr (s.rd p))).storeByte (byteOfPointer (s.rd p))
        ((s.rd d).extractLsb' 0 8) with
    | error f =>
      rw [exec_stB_of_fault hstore] at h
      cases h
      exact hstepped.dataFault _ _
    | ok u =>
      rw [exec_stB_of_ok hstore] at h
      cases h
      exact (hstepped.storeByte hstore).advance
  | ldM rb ra | stM rb ra =>
    simp only [exec, execLdM, execStM] at h
    split at h <;> cases h
    exact hs.transferOne _
  | div rb ra =>
    have hcleared : OthersKept s (s.modCpu (fun u => u.withBit bitF false)) := hs.modCpu _
    simp only [exec, execDiv] at h
    split at h
    · cases h
      split
      · exact (hcleared.modCpu _).raise _
      · exact (hcleared.modCpu _).advance
    · split at h <;> cases h
      · split
        · exact (hcleared.modCpu _).raise _
        · exact (hcleared.modCpu _).advance
      · exact (hcleared.modCpu _).advance
  | movTS rb sp =>
    simp only [exec, execMovTS] at h
    split at h
    · cases h
      exact hs.raiseIllegal
    · split at h <;> cases h
      exact (hs.writeSpecial ‹_›).advance
  | rtI =>
    simp only [exec, execRtI] at h
    repeat' split at h
    all_goals cases h
    · exact hs.raiseIllegal
    all_goals exact (hs.modCpu _).withEvent _
  | trap num =>
    cases h
    exact (hs.raiseAt _ _).withEvent _
  | clrM bit | setM bit | tstM bit | rdtx rb ra | movFS rb sp =>
    simp only [exec, execClrM, execSetM, execTstM, execRdtx, execMovFS] at h
    split at h <;> cases h
    · exact hs.raiseIllegal
    · exact (hs.modCpu _).advance
  | iicA =>
    simp only [exec, execIicA] at h
    split at h <;> cases h
    · exact hs.raiseIllegal
    · exact hs.dropAllFetch.advance
  | itlb =>
    simp only [exec, execItlb] at h
    split at h <;> cases h
    · exact hs.raiseIllegal
    · exact (hs.withMemory [] s.dcache s.mem s.icache s.stored).advance
  | tstF ra =>
    simp only [exec, execTstF] at h
    split at h <;> cases h <;> exact (hs.modCpu _).advance
  | bcc cc disp =>
    simp only [exec, execBcc] at h
    split at h <;> cases h
    · exact hs.takeBranch _
    · exact hs.advanceBranch
  | skcc cc =>
    simp only [exec, execSkcc] at h
    split at h <;> cases h
    · exact (hs.modCpu _).advanceBranch
    · exact hs.advanceBranch
  | shL rb amt | shR ra amt =>
    simp only [exec, execShL, execShR] at h
    split at h <;> cases h <;> exact ((hs.wr _ _).modCpu _).advance
  | jmpR disp | jmpA ra =>
    cases h
    exact hs.takeBranch _
  | jmpL ra =>
    cases h
    exact (hs.wr _ _).takeBranch _
  | add rb ra | addI rb imm | addC rb ra | sub rb ra | subI rb imm | subC rb ra | neg rb ra =>
    cases h
    exact hs.commitAdd _ _
  | dep rb ra | ins rb ra | extU rb ra | extS rb ra | dSh rb ra =>
    cases h
    exact hs.commitField _ _
  | adPC ra | ld rb imm | ldCP ra | lcc rb cc | mov rb ra | clrF ra | setF ra | mskI pos len | mskR ra len
  | cmp rb ra | cmpI rb imm | cmpP rb ra | mul rb ra =>
    cases h
    exact (hs.modCpu _).advance
  | mulP rb ra | clz rb ra | addP rb ra | adCP rb ra | subP rb ra | sbCP rb ra | and rb ra | andC rb ra | or rb ra
  | xOr rb ra | not rb ra =>
    cases h
    exact ((hs.wr _ _).modCpu _).advance

/-! ### The instructions that act on other PUs -/

/-- What an instruction of form `f` may make of another PU: `u` is that PU before it and `v` after. -/
def OtherPuAfter (f : Form) (u v : PU) : Prop :=
  (f ≠ .send → v.regs = u.regs) ∧
  (f ∉ [Form.rsm, Form.strt, Form.wait] → v.pc = u.pc ∧ v.npc = u.npc ∧ v.sscr = u.sscr) ∧
  (∀ j, j ≠ 4 → j ≠ 25 → v.sscr.getLsbD j = u.sscr.getLsbD j) ∧
  v.mask = u.mask ∧ v.remainder = u.remainder ∧ v.product = u.product ∧ v.statusSave = u.statusSave ∧
  v.trapArg = u.trapArg ∧ v.qHead = u.qHead ∧ v.qTail = u.qTail ∧ v.rti1 = u.rti1

theorem OtherPuAfter.refl (f : Form) (u : PU) : OtherPuAfter f u u :=
  ⟨fun _ => rfl, fun _ => ⟨rfl, rfl, rfl⟩, fun _ _ _ => rfl, rfl, rfl, rfl, rfl, rfl, rfl, rfl, rfl⟩

theorem PU.leaveWait_after (u : PU) : OtherPuAfter .wait u u.leaveWait :=
  ⟨fun _ => rfl, fun h => absurd (by simp) h, fun _ _ hW => PU.leaveWait_status u hW, rfl, rfl, rfl, rfl, rfl, rfl, rfl,
    rfl⟩

theorem PU.resume_after (u : PU) : OtherPuAfter .rsm u u.resume := by
  refine ⟨fun _ => ?_, fun h => absurd (by simp) h, fun _ hA hW => u.resume_status hA hW, ?_, ?_, ?_, ?_, ?_, ?_, ?_,
    ?_⟩
  all_goals
    unfold resume
    dsimp only
    split <;> rfl

theorem PU.start_after (u : PU) (a : HAddr) : OtherPuAfter .strt u (u.start a) := by
  refine ⟨fun _ => rfl, fun h => absurd (by simp) h, fun j hA hW => ?_, rfl, rfl, rfl, rfl, rfl, rfl, rfl, rfl⟩
  rw [PU.start_status, if_neg hW, if_neg hA]

theorem PU.writeDest_after (u : PU) (r : Reg) (v : Word) : OtherPuAfter .send u (u.writeDest (.gpr r) v) :=
  ⟨fun h => absurd rfl h, fun _ => ⟨rfl, rfl, rfl⟩, fun _ _ _ => rfl, rfl, rfl, rfl, rfl, rfl, rfl, rfl, rfl⟩

/-- An interrupt pending or not is no part of what `OtherPuAfter` speaks of. -/
theorem PU.pend_after (f : Form) (u : PU) (inter restart : Bool) :
    OtherPuAfter f u { u with pendInter := inter, pendRestart := restart } :=
  ⟨fun _ => rfl, fun _ => ⟨rfl, rfl, rfl⟩, fun _ _ _ => rfl, rfl, rfl, rfl, rfl, rfl, rfl, rfl, rfl⟩

section
variable {s t : State} {q : PuId} (hq : q ≠ s.turn) (form : Form)
include hq

theorem OthersKept.after (h : OthersKept s t) : OtherPuAfter form (s.pu q) (t.pu q) := by
  rw [h.pus q hq]
  exact .refl _ _

theorem State.forTargets_after {f : PU → PU} (m : BitVec 4) (hf : ∀ u, OtherPuAfter form u (f u)) :
    OtherPuAfter form (s.pu q) ((s.forPus (targets m) f).advance.pu q) := by
  rw [s.forTargets_advance_other m f hq]
  split
  · exact hf _
  · exact .refl _ _

end

/-- An instruction leaves another PU as it is, or does to it what its own mask or the other's Wait asks for. -/
theorem exec_otherPuAfter {i : Instr} {s t : State} {q : PuId} (hq : q ≠ s.turn) (h : exec i s = .next t) :
    OtherPuAfter i.form (s.pu q) (t.pu q) := by
  have hs := OthersKept.refl s
  by_cases hi : i.form ∈ interPuForms
  · cases i with
    | res m =>
      simp only [exec, execRes] at h
      split at h <;> cases h
      · exact hs.raiseIllegal.after hq _
      · exact State.forTargets_after hq _ m fun u => PU.pend_after _ u u.pendInter true
    | int m =>
      simp only [exec, execInt] at h
      repeat' split at h
      all_goals cases h
      · exact hs.raiseIllegal.after hq _
      · exact hs.stay.after hq _
      · exact State.forTargets_after hq _ m fun u => PU.pend_after _ u true u.pendRestart
    | rsm m =>
      simp only [exec, execRsm] at h
      split at h <;> cases h
      · exact hs.stay.after hq _
      · exact State.forTargets_after hq _ m PU.resume_after
    | send rb m =>
      simp only [exec, execSend] at h
      split at h <;> cases h
      · exact hs.stay.after hq _
      · exact State.forTargets_after hq _ m fun u => u.writeDest_after _ _
    | strt rb m =>
      simp only [exec, execStrt] at h
      repeat' split at h
      all_goals cases h
      · exact hs.stay.after hq _
      · exact State.forTargets_after hq _ m fun u => u.start_after _
    | wait m =>
      rw [exec_wait] at h
      cases h
      rw [State.haltedSlot_pu, s.inWait_pu_other m hq]
      split
      · exact PU.leaveWait_after _
      · exact .refl _ _
    | _ => simp [Instr.form, interPuForms] at hi
  · exact (exec_othersKept hi h).after hq _

/-- Settles O15: only the inter-PU instructions reach another PU, each by one change of it. -/
theorem otherPusProtected : Obligations.OtherPusProtected := fun _ _ _ _ hq h => exec_otherPuAfter hq h

end Sys2Proof.Machine
end

section
/-! SUPPORT. Interrupts (60_exceptions.md R343 to R348, R352, R353, 70_reset_and_hazards.md R390): which one a step
takes, and what taking one changes. -/

namespace Sys2Proof.Machine

/-! ### The interrupt a step takes (R345) -/

theorem State.preempt_of_accepted {s : State} {n : Fin 32} (h : s.accepted = some n) :
    s.preempt = some (.next (s.takeInterrupt n)) := by
  simp [preempt, h]

theorem State.deliverable_of_accepted {s : State} {n : Fin 32} (h : s.accepted = some n) :
    s.deliverable s.turn n = true := by
  simpa using List.find?_some h

theorem mem_interruptOrder {n : Fin 32} : n ∈ interruptOrder ↔ 0x18 ≤ n.val := by
  revert n
  decide

/-- The numbers are tried from the highest down. -/
theorem interruptOrder_sorted : interruptOrder.Pairwise (· > ·) := by decide

theorem State.accepted_isGreatest {s : State} {n : Fin 32} (h : s.accepted = some n) {m : Fin 32} (hm : n < m) :
    s.deliverable s.turn m = false := by
  obtain ⟨-, before, after, horder, hbefore⟩ := List.find?_eq_some_iff_append.mp h
  have hn : n ∈ interruptOrder := List.mem_of_find?_eq_some h
  have hmem : m ∈ before ++ n :: after := by
    rw [← horder, mem_interruptOrder]
    exact (mem_interruptOrder.mp hn).trans (Nat.le_of_lt hm)
  have hsorted := interruptOrder_sorted
  rw [horder, List.pairwise_append, List.pairwise_cons] at hsorted
  obtain ⟨-, ⟨hafter, -⟩, -⟩ := hsorted
  obtain hlow | hlow := List.mem_append.mp hmem
  · simpa using hbefore m hlow
  · obtain rfl | hlow := List.mem_cons.mp hlow
    · exact absurd hm (lt_irrefl _)
    · exact absurd hm (lt_asymm (hafter m hlow))

/-! ### The causes after an interrupt (R348) -/

/-- The held causes once interrupt `n` is taken: a directed Restart leaves the held nondirected one. -/
def State.pendAfter (s : State) (n : Fin 32) : Pending where
  reset := s.pend.reset && n != numReset
  machineCheck := s.pend.machineCheck && n != numMachineCheck
  restart := s.pend.restart && (n != numRestart || s.cpu.pendRestart)
  powerFail := s.pend.powerFail && n != numPowerFail
  interChip := if n = numInterChip then none else s.pend.interChip

/-- A PU once its directed cause of `n`, if it has one, is cleared. -/
def PU.clearDirected (u : PU) (n : Fin 32) : PU :=
  { u with pendInter := u.pendInter && n != numInterPu, pendRestart := u.pendRestart && n != numRestart }

/-- Without a directed cause to clear the PU stays as it is. -/
theorem PU.clearDirected_eq_self {u : PU} {n : Fin 32} (hinter : n ≠ numInterPu)
    (hrestart : n = numRestart → u.pendRestart = false) : u.clearDirected n = u := by
  have hkept : (u.pendRestart && n != numRestart) = u.pendRestart := by
    by_cases h : n = numRestart
    · rw [hrestart h, Bool.false_and]
    · rw [bne_iff_ne.mpr h, Bool.and_true]
  rw [clearDirected, hkept, bne_iff_ne.mpr hinter, Bool.and_true]

/-- Taking an interrupt clears a directed cause of the PU's own, or one that the chip holds. -/
theorem State.clearCause_eq (s : State) {n : Fin 32} (h : n ∈ interruptOrder) :
    s.clearCause n = { s.modCpu (fun u => u.clearDirected n) with
      pend := s.pendAfter n
      s14 := if n = numInterChip then withInterruptAddress s.s14 (s.pend.interChip.getD 0) else s.s14 } := by
  have hheld (hinter : n ≠ numInterPu) (hrestart : n = numRestart → s.cpu.pendRestart = false) :
      s.modCpu (fun u => u.clearDirected n) = s := by
    rw [modCpu, PU.clearDirected_eq_self hinter hrestart, setCpu_self]
  have hdirected (hchip : n ≠ numInterChip) (hpend : s.pendAfter n = s.pend) :
      { s.modCpu (fun u => u.clearDirected n) with
        pend := s.pendAfter n
        s14 := if n = numInterChip then withInterruptAddress s.s14 (s.pend.interChip.getD 0) else s.s14 } =
      s.modCpu (fun u => u.clearDirected n) := by
    rw [hpend, if_neg hchip, ← modCpu_pend s, ← modCpu_s14 s]
  simp only [interruptOrder, List.mem_cons, List.not_mem_nil, or_false] at h
  obtain rfl | rfl | rfl | rfl | rfl | rfl | rfl | rfl := h
  case inr.inr.inl =>
    cases hown : s.cpu.pendRestart with
    | false =>
      rw [hheld (by decide) fun _ => hown]
      simp [clearCause, pendAfter, hown, numReset, numMachineCheck, numRestart, numPowerFail, numInterChip]
    | true =>
      rw [hdirected (by decide) (by simp [pendAfter, hown, numReset, numMachineCheck, numRestart, numPowerFail,
        numInterChip])]
      simp [clearCause, hown, PU.clearDirected, numReset, numMachineCheck, numRestart, numInterPu]
  case inr.inr.inr.inr.inl =>
    rw [hdirected (by decide) (by simp [pendAfter, numReset, numMachineCheck, numRestart, numPowerFail,
      numInterChip, numInterPu])]
    simp [clearCause, PU.clearDirected, numReset, numMachineCheck, numRestart, numPowerFail, numInterPu]
  all_goals
    rw [hheld (by decide) fun h => absurd h (by decide)]
    simp [clearCause, pendAfter, numReset, numMachineCheck, numRestart, numPowerFail, numInterPu, numInterChip,
      numEventCounter, numExternal]

theorem unchanged_clearDirected (s : State) (n : Fin 32) :
    Unchanged s (s.modCpu (fun u => u.clearDirected n)) [.pendInter, .pendRestart] :=
  unchanged_setCpu (u := s.cpu.clearDirected n) (e := s.event) (fun _ _ => rfl) (fun _ _ => rfl)
    (fun _ => ⟨rfl, rfl⟩) (fun _ => rfl) (fun _ => rfl) (fun _ => rfl) (fun _ => rfl) (fun _ => rfl)
    (fun _ => ⟨rfl, rfl⟩) (fun _ => rfl) (fun _ => rfl) (fun _ => rfl) (fun _ => rfl)
    (fun h => absurd (by simp) h) (fun h => absurd (by simp) h) (fun _ _ => rfl) (fun _ => rfl)

/-- The causes that the chip holds, and S14. -/
theorem unchanged_causes {s : State} {q : Pending} {w : Word} {ps : List Part}
    (hpend : Part.pending ∉ ps → q = s.pend) (hint : Part.interruptArgument ∉ ps → w = s.s14) :
    Unchanged s { s with pend := q, s14 := w } ps := by
  have hpu : ∀ p, ({ s with pend := q, s14 := w } : State).pu p = s.pu p := by
    intro p
    cases p <;> rfl
  have hcpu : ({ s with pend := q, s14 := w } : State).cpu = s.cpu := hpu s.turn
  intro p hp
  cases p with
  | pending => exact hpend hp
  | interruptArgument => exact hint hp
  | otherPus => exact fun q _ => hpu q
  | memory | dataCache | instCache | stored | tlb | test | window | semaphores | eventCounters | eventConfig
  | pageTable | model => simp [Part.Same]
  | reg r | status b | counters | mask | remainder | product | statusSave | trapArg | queue | returnMark
  | waitSem | run | waitMask | pendInter | pendRestart | intervals | waitEnded => simp [Part.Same, hcpu]

theorem unchanged_clearCause (s : State) {n : Fin 32} (h : n ∈ interruptOrder) :
    Unchanged s (s.clearCause n) [.pendInter, .pendRestart, .interruptArgument, .pending] := by
  rw [s.clearCause_eq h]
  exact (unchanged_clearDirected s n).trans (State.modCpu_turn ..)
    (unchanged_causes (ps := [.interruptArgument, .pending]) (fun h => absurd (by simp) h)
      (fun h => absurd (by simp) h))

theorem State.clearCause_cpu (s : State) {n : Fin 32} (h : n ∈ interruptOrder) :
    (s.clearCause n).cpu = s.cpu.clearDirected n := by
  rw [s.clearCause_eq h]
  exact State.modCpu_cpu s _

theorem State.clearCause_turn (s : State) {n : Fin 32} (h : n ∈ interruptOrder) : (s.clearCause n).turn = s.turn :=
  (unchanged_clearCause s h).turn (by simp)

/-! ### The entry of an interrupt (R352, R353) -/

/-- A PU that keeps its registers, results, causes and intervals differs in what an entry may change. -/
theorem unchanged_entered {s : State} {u : PU} {e : StepEvent}
    (h : u.regs = s.cpu.regs ∧ u.mask = s.cpu.mask ∧ u.remainder = s.cpu.remainder ∧ u.product = s.cpu.product ∧
      u.trapArg = s.cpu.trapArg ∧ u.pendInter = s.cpu.pendInter ∧ u.pendRestart = s.cpu.pendRestart ∧
      u.inflight = s.cpu.inflight ∧ u.waitEnded = s.cpu.waitEnded) :
    Unchanged s { s.setCpu u with event := e } entryParts := by
  obtain ⟨hregs, hmask, hrem, hprod, harg, hinter, hrestart, hflight, hended⟩ := h
  exact unchanged_setCpu (fun r _ => PU.reg_of_regs hregs r)
    (fun b hb => absurd (status_mem_entryParts b) hb) (fun h => absurd (by simp [entryParts]) h)
    (fun _ => hmask) (fun _ => hrem) (fun _ => hprod) (fun h => absurd (by simp [entryParts]) h) (fun _ => harg)
    (fun h => absurd (by simp [entryParts]) h) (fun h => absurd (by simp [entryParts]) h)
    (fun h => absurd (by simp [entryParts]) h) (fun h => absurd (by simp [entryParts]) h)
    (fun h => absurd (by simp [entryParts]) h) (fun _ => hinter) (fun _ => hrestart)
    (fun _ d => PU.busy_of_inflight hflight d) (fun _ => hended)

/-- What an entry changes: the PU, and the individual enable of an interrupt that has one (R343). -/
theorem unchanged_enter (s : State) (n : Fin 32) (sv : HAddr × HAddr) :
    Unchanged s (s.enter s.turn n sv) (entryParts ++ [.eventConfig, .interruptArgument]) := by
  have hpu : Unchanged s { s.setCpu (s.cpu.enter s.turn s.tick n sv) with event := .trapped } entryParts :=
    unchanged_entered (s.cpu.enter_frame s.turn s.tick n sv)
  rw [State.enter_eq]
  exact hpu.trans (State.setPu_turn ..) (unchanged_chipRegisters (fun _ => ⟨rfl, rfl⟩)
    (fun h => absurd (by simp) h) (fun h => absurd (by simp) h) (fun _ => rfl))

section
variable (s : State) (p : PuId) (n : Fin 32) (sv : HAddr × HAddr)

theorem State.enter_s12 :
    (s.enter p n sv).s12 = if n = numEventCounter then clearCounterEnables s.s12 else s.s12 :=
  congrArg State.s12 (s.enter_eq p n sv)

theorem State.enter_s14 : (s.enter p n sv).s14 =
    if n = numEventCounter then s.s14 else if n = numExternal then setBit s.s14 31 false else s.s14 :=
  congrArg State.s14 (s.enter_eq p n sv)

theorem State.enter_pend : (s.enter p n sv).pend = s.pend :=
  (congrArg State.pend (s.enter_eq p n sv)).trans (State.setPu_pend ..)

end

section
variable {s : State} {n : Fin 32} (hn : n ≠ numReset)
include hn

theorem State.takeInterrupt_of_enter : s.takeInterrupt n =
    { (s.clearCause n).enter s.turn n (s.cpu.pc, s.cpu.npc) with event := .interrupted } := by
  simp [takeInterrupt, hn]

theorem State.takeInterrupt_atEntry : (s.takeInterrupt n).AtEntry s.turn n.val := by
  rw [State.takeInterrupt_of_enter hn]
  exact ((s.clearCause n).enter_atEntry s.turn n _).withEvent _

variable (h : n ∈ interruptOrder)
include h

/-- The PU that takes an interrupt, its directed cause cleared, is at the entry. -/
theorem State.takeInterrupt_pu : (s.takeInterrupt n).pu s.turn =
    (s.cpu.clearDirected n).enter s.turn s.tick n (s.cpu.pc, s.cpu.npc) := by
  have hpu : (s.clearCause n).pu s.turn = s.cpu.clearDirected n := by
    rw [← s.clearCause_cpu h, cpu, s.clearCause_turn h]
  obtain ⟨-, -, -, htick⟩ : Part.Same s (s.clearCause n) .model := unchanged_clearCause s h _ (by simp)
  rw [State.takeInterrupt_of_enter hn, pu_with_event, enter_pu_self, hpu, htick]

theorem State.takeInterrupt_saved (hT : s.cpu.flagT = true) :
    (s.takeInterrupt n).Saved s.turn s.cpu.sscr s.cpu.pc s.cpu.npc := by
  unfold Saved
  rw [State.takeInterrupt_pu hn h]
  exact PU.enter_saves (s.cpu.clearDirected n) _ _ _ _ hT

theorem unchanged_takeInterrupt : Unchanged s (s.takeInterrupt n)
    (entryParts ++ [.pendInter, .pendRestart, .eventConfig, .interruptArgument, .pending]) := by
  have hturn := s.clearCause_turn h
  have henter := unchanged_enter (s.clearCause n) n (s.cpu.pc, s.cpu.npc)
  rw [hturn] at henter
  rw [State.takeInterrupt_of_enter hn]
  refine (((unchanged_clearCause s h).trans hturn henter).trans ?_ (unchanged_withEvent _ _)).mono fun p hp => ?_
  · exact (henter.turn (by simp [entryParts])).trans hturn
  · simp only [List.mem_append, List.mem_cons, List.not_mem_nil, or_false] at hp ⊢
    tauto

theorem State.takeInterrupt_s12 : (s.takeInterrupt n).s12 =
    if n = numEventCounter then clearCounterEnables s.s12 else s.s12 := by
  rw [State.takeInterrupt_of_enter hn]
  refine (State.enter_s12 ..).trans ?_
  rw [unchanged_clearCause s h .eventConfig (by simp)]

theorem State.takeInterrupt_s14 : (s.takeInterrupt n).s14 =
    if n = numExternal then setBit s.s14 31 false
    else if n = numInterChip then withInterruptAddress s.s14 (s.pend.interChip.getD 0) else s.s14 := by
  have hs14 : (s.clearCause n).s14 =
      if n = numInterChip then withInterruptAddress s.s14 (s.pend.interChip.getD 0) else s.s14 :=
    congrArg State.s14 (s.clearCause_eq h)
  rw [State.takeInterrupt_of_enter hn]
  refine (State.enter_s14 ..).trans ?_
  rw [hs14]
  by_cases hcounter : n = numEventCounter
  · subst n
    rfl
  · by_cases hexternal : n = numExternal
    · subst n
      rfl
    · simp only [hcounter, hexternal, if_false]

theorem State.takeInterrupt_pend : (s.takeInterrupt n).pend = s.pendAfter n := by
  rw [State.takeInterrupt_of_enter hn]
  exact (State.enter_pend ..).trans (congrArg State.pend (s.clearCause_eq h))

end

/-! ### Each bit of S12 and S14 after an interrupt (R343, R348) -/

theorem clearCounterEnables_getLsbD (c : BitVec 16) {j : Nat} (hj : j < 16) : (clearCounterEnables c).getLsbD j =
    if j = 15 ∧ c.getLsbD 14 = true ∨ j = 7 ∧ c.getLsbD 6 = true then false else c.getLsbD j := by
  have hupper : ∀ j < 16, (0x7FFF : BitVec 16).getLsbD j = decide (j ≠ 15) := by decide
  have hlower : ∀ j < 16, (0xFF7F : BitVec 16).getLsbD j = decide (j ≠ 7) := by decide
  unfold clearCounterEnables
  dsimp only
  split <;> split <;> grind

theorem withInterruptAddress_getLsbD (w : Word) (a : BitVec 30) {j : Nat} (hj : j < 32) :
    (withInterruptAddress w a).getLsbD j = if j < 30 then a.getLsbD j else w.getLsbD j := by
  rw [withInterruptAddress, BitVec.getLsbD_append]
  split
  · rfl
  · rw [BitVec.getLsbD_extractLsb', Nat.add_sub_cancel' (by omega), decide_eq_true (by omega), Bool.true_and]

section
variable {s : State} {n : Fin 32} (hn : n ≠ numReset) (h : n ∈ interruptOrder) {j : Nat}
include hn h

/-- The enables of the overflowed counters are cleared where their interrupt is taken. -/
theorem State.takeInterrupt_s12_getLsbD (hj : j < 16) : (s.takeInterrupt n).s12.getLsbD j =
    if n = 0x19 ∧ (j = 15 ∧ s.s12.getLsbD 14 = true ∨ j = 7 ∧ s.s12.getLsbD 6 = true) then false
    else s.s12.getLsbD j := by
  rw [State.takeInterrupt_s12 hn h]
  by_cases hcounter : n = 0x19
  · rw [if_pos (show n = numEventCounter from hcounter), clearCounterEnables_getLsbD _ hj]
    simp only [hcounter, true_and]
  · rw [if_neg (show n ≠ numEventCounter from hcounter)]
    simp only [hcounter, false_and, if_false]

/-- An External interrupt clears EIE, an Inter-chip one leaves its address. -/
theorem State.takeInterrupt_s14_getLsbD (hj : j < 32) : (s.takeInterrupt n).s14.getLsbD j =
    if n = 0x18 ∧ j = 31 then false
    else if n = 0x1A ∧ j < 30 then (s.pend.interChip.getD 0).getLsbD j else s.s14.getLsbD j := by
  rw [State.takeInterrupt_s14 hn h]
  by_cases hexternal : n = 0x18
  · rw [if_pos (show n = numExternal from hexternal), setBit_getLsbD _ _ _ _ (by decide)]
    simp [hexternal]
  · rw [if_neg (show n ≠ numExternal from hexternal)]
    by_cases hchip : n = 0x1A
    · rw [if_pos (show n = numInterChip from hchip), withInterruptAddress_getLsbD _ _ hj]
      simp [hchip]
    · rw [if_neg (show n ≠ numInterChip from hchip)]
      simp [hexternal, hchip]

end

/-! ### The pushbutton Reset (R390; L14) -/

theorem State.takeInterrupt_of_reset (s : State) : s.takeInterrupt numReset =
    { ({ s with pend := { s.pend with reset := false } } : State).resetAll with event := .interrupted } := rfl

theorem State.takeInterrupt_reset_pu (s : State) (p : PuId) :
    (s.takeInterrupt numReset).pu p = (s.pu p).resetBy p s.tick (s.resets p) := by
  cases p <;> rfl

/-- A PU that a Reset makes enter stands at its vector, any other is halted there. -/
theorem PU.resetBy_entry (u : PU) (p : PuId) (tick : Nat) (enters : Bool) :
    (u.resetBy p tick enters).pc = BitVec.ofNat 30 (8 * 0x1F) ∧
    (u.resetBy p tick enters).npc = BitVec.ofNat 30 (8 * 0x1F + 1) ∧
    (u.resetBy p tick enters).sscr.extractLsb' 0 16 = 0 ∧ (u.resetBy p tick enters).flagW = !enters ∧
    (u.resetBy p tick enters).flagS = false ∧ (u.resetBy p tick enters).rti1 = false ∧
    (u.resetBy p tick enters).waitSem = none ∧ (u.resetBy p tick enters).run = none ∧
    (u.resetBy p tick enters).waitMask = none ∧ (u.resetBy p tick enters).afterBranch = false := by
  obtain ⟨hpc, hnpc, hmode, -, -, hw, hs⟩ := (u.saveFree p tick).enterVector_entry p tick numReset
  have hnpc' := hnpc.trans (BitVec.ofNat_add ..).symm
  cases enters with
  | true => exact ⟨hpc, hnpc', hmode, hw, hs, rfl, rfl, rfl, rfl, rfl⟩
  | false =>
    refine ⟨hpc, hnpc', ?_, setBit_same _ _ _ (by decide), ?_, rfl, rfl, rfl, rfl, rfl⟩
    · rw [← hmode]
      refine BitVec.eq_of_getLsbD_eq fun j hj => ?_
      simp only [BitVec.getLsbD_extractLsb', Nat.zero_add]
      rw [show (u.resetBy p tick false).sscr.getLsbD j = _ from
        PU.withBit_getLsbD _ true (by decide) (show j ≠ bitW by unfold bitW; omega)]
    · exact (PU.withBit_getLsbD _ true (by decide) (by decide)).trans hs

theorem PU.resetBy_frame (u : PU) (p : PuId) (tick : Nat) (enters : Bool) :
    (u.resetBy p tick enters).regs = u.regs ∧ (u.resetBy p tick enters).mask = u.mask ∧
    (u.resetBy p tick enters).remainder = u.remainder ∧ (u.resetBy p tick enters).product = u.product ∧
    (u.resetBy p tick enters).trapArg = u.trapArg ∧ (u.resetBy p tick enters).pendInter = u.pendInter ∧
    (u.resetBy p tick enters).pendRestart = u.pendRestart ∧ (u.resetBy p tick enters).inflight = u.inflight ∧
    (u.resetBy p tick enters).waitEnded = u.waitEnded := by
  cases enters <;> exact ⟨rfl, rfl, rfl, rfl, rfl, rfl, rfl, rfl, rfl⟩

theorem unchanged_resetAll (s : State) : Unchanged s s.resetAll (entryParts ++ [.otherPus]) := by
  refine Unchanged.of_pus rfl ?_ fun h => absurd (by simp) h
  rw [show s.resetAll.cpu = _ from s.resetAll_pu s.turn]
  exact (unchanged_entered (e := s.event) (s.cpu.resetBy_frame s.turn s.tick (s.resets s.turn))).mono (by simp)

theorem unchanged_takeInterrupt_reset (s : State) :
    Unchanged s (s.takeInterrupt numReset) (entryParts ++ [.otherPus, .pending]) := by
  have hcause : Unchanged s { s with pend := { s.pend with reset := false } } [.pending] :=
    unchanged_causes (fun h => absurd (List.mem_singleton.mpr rfl) h) (fun _ => rfl)
  exact ((hcause.trans (by rfl) (unchanged_resetAll _)).trans (by rfl) (unchanged_withEvent _ _)).mono (by simp)

end Sys2Proof.Machine
end

section
/-! PROOFS. The interrupt a step takes (60_exceptions.md R345, R348, R352, R353, 70_reset_and_hazards.md R390), and the
PU that takes it (R342, R345, R346, R347). -/

namespace Sys2Proof.Machine

/-- Settles O9: the entry with the cause cleared, and the Reset of every PU. -/
theorem interruptTaken : Obligations.InterruptTaken := by
  intro s n s0 hacc
  have hstep : step s = .next ((s0.takeInterrupt n).finishStep s0.cpu.flagU) :=
    step_of_preempt (State.preempt_of_accepted hacc)
  have horder : n ∈ interruptOrder := List.mem_of_find?_eq_some hacc
  refine ⟨fun m hm => State.accepted_isGreatest hacc hm, fun hn => ?_, ?_⟩
  · have hframe : Unchanged s0 _ _ := unchanged_takeInterrupt hn horder
    have hcpu : (s0.takeInterrupt n).cpu =
        (s0.cpu.clearDirected n).enter s0.turn s0.tick n (s0.cpu.pc, s0.cpu.npc) := by
      rw [State.cpu, hframe.turn (by simp [entryParts]), State.takeInterrupt_pu hn horder]
    obtain ⟨-, -, -, -, -, hinter, hrestart, -⟩ :=
      (s0.cpu.clearDirected n).enter_frame s0.turn s0.tick n (s0.cpu.pc, s0.cpu.npc)
    refine ⟨_, hstep, State.takeInterrupt_atEntry hn, State.takeInterrupt_saved hn horder,
      fun j hj => State.takeInterrupt_s12_getLsbD hn horder hj,
      fun j hj => State.takeInterrupt_s14_getLsbD hn horder hj, ?_, ?_, ?_, hframe⟩
    · have hreset : (s0.pend.reset && n != numReset) = s0.pend.reset := by
        rw [bne_iff_ne.mpr (show n ≠ numReset from hn), Bool.and_true]
      rw [State.takeInterrupt_pend hn horder, State.pendAfter, hreset]
      rfl
    · rw [hcpu]
      exact hinter
    · rw [hcpu]
      exact hrestart
  · rintro rfl
    refine ⟨_, hstep, rfl, unchanged_takeInterrupt_reset s0, fun p => ?_⟩
    obtain ⟨hpc, hnpc, hmode, hw, hs, hrti, hsem, hrun, hmask, hbranch⟩ :=
      (s0.pu p).resetBy_entry p s0.tick (s0.resets p)
    obtain ⟨hregs, hfield, hrem, hprod, harg, hinter, hrestart, -⟩ :=
      (s0.pu p).resetBy_frame p s0.tick (s0.resets p)
    unfold State.AtEntry
    rw [show (s0.takeInterrupt 0x1F).pu p = _ from s0.takeInterrupt_reset_pu p]
    refine ⟨fun hin => ⟨hpc, hnpc, hmode, ?_, hs, hrti, hsem, hrun, hmask, hbranch⟩,
      fun hout => ⟨hmode, ?_, hs, hrti, hsem, hrun, hmask⟩, hregs, hfield, hrem, hprod, harg, hinter, hrestart⟩
    · rw [hw, State.resets, hin]
      rfl
    · rw [hw, State.resets, hout]
      rfl

/-! ### Who may take an interrupt (R342, R345, R346, R347) -/

theorem State.canAccept_iff (s : State) (p : PuId) (n : Fin 32) : s.canAccept p n = true ↔
    (s.pu p).rti1 = false ∧ (s.pu p).run = none ∧
      (28 ≤ n.val ∨ (s.pu p).flagT = true ∧ s.frozen p = false) ∧ s.enabledFor n = true := by
  simp [canAccept, and_assoc]

theorem PuId.mem_all (q : PuId) : q ∈ PuId.all := by
  cases q <;> decide

theorem State.selected_iff (s : State) (p : PuId) (n : Fin 32) : s.selected p n = true ↔
    s.canAccept p n = true ∧ ∀ q, s.canAccept q n = true → (s.pu p).preference ≤ (s.pu q).preference := by
  simp [selected, PuId.mem_all, ← Bool.not_eq_true, imp_iff_not_or]

/-- An interrupt below Reset goes to a PU that the selection allows, or is directed to one that can accept it. -/
theorem State.deliverable_cases {s : State} {p : PuId} {n : Fin 32} (h : s.deliverable p n = true)
    (hn : n ≠ numReset) :
    s.selected p n = true ∨ (n = numRestart ∨ n = numInterPu) ∧ s.canAccept p n = true := by
  unfold deliverable at h
  rw [if_neg hn] at h
  split_ifs at h <;> grind

theorem State.canAccept_of_deliverable {s : State} {p : PuId} {n : Fin 32} (h : s.deliverable p n = true)
    (hn : n ≠ numReset) : s.canAccept p n = true := by
  obtain hselected | ⟨-, haccept⟩ := State.deliverable_cases h hn
  · exact ((s.selected_iff p n).mp hselected).1
  · exact haccept

/-- Of the PUs that can accept an interrupt one has the best preference. -/
theorem State.exists_selected {s : State} {n : Fin 32} (h : ∃ q, s.canAccept q n = true) :
    ∃ p, s.selected p n = true := by
  obtain ⟨p, haccept, hbest⟩ :=
    exists_minimalFor_of_wellFoundedLT (fun q => s.canAccept q n = true) (fun q => (s.pu q).preference) h
  exact ⟨p, (s.selected_iff p n).mpr ⟨haccept, fun q hq => (le_total _ _).elim id (hbest hq)⟩⟩

theorem State.accepted_reset_iff (s : State) : s.accepted = some numReset ↔ s.pend.reset = true ∧
    ∀ p : PuId, s.params.resetPus.getLsbD p.number = true → (s.pu p).rti1 = false ∧ (s.pu p).run = none := by
  have hfirst : s.accepted = some numReset ↔ s.deliverable s.turn numReset = true :=
    ⟨State.deliverable_of_accepted, List.find?_cons_of_pos⟩
  have hready : s.canReset = true ↔ ∀ p, s.resets p = true → s.canAccept p numReset = true := by
    simp [canReset, PuId.mem_all, ← Bool.not_eq_true, imp_iff_not_or]
  have haccept (p : PuId) :
      s.canAccept p numReset = true ↔ (s.pu p).rti1 = false ∧ (s.pu p).run = none := by
    simp [s.canAccept_iff, enabledFor, numReset, numExternal, numEventCounter]
  rw [hfirst, deliverable, if_pos rfl, Bool.and_eq_true, hready]
  simp only [haccept, resets]

/-- A PU no worse than another is available if the other is, and else halted if the other is. -/
theorem PU.preference_le {u v : PU} (h : u.preference ≤ v.preference) :
    (v.savedStatus.getLsbD 4 = true → u.savedStatus.getLsbD 4 = true) ∧
    (v.savedStatus.getLsbD 4 = false → u.savedStatus.getLsbD 4 = false → v.flagW = true → u.flagW = true) := by
  unfold preference bitA at h
  grind

/-- Settles O10: what `canAccept` asks for, and the best preference among the PUs that can accept. -/
theorem interruptSelection : Obligations.InterruptSelection := by
  refine ⟨fun s n hacc hn => ?_, State.accepted_reset_iff, fun s n h => State.exists_selected h,
    fun s p q n hmem hdeliver haccept => ?_⟩
  · obtain ⟨hrti, hrun, hable, -⟩ := (s.canAccept_iff s.turn n).mp
      (State.canAccept_of_deliverable (State.deliverable_of_accepted hacc) hn)
    exact ⟨hrti, hrun, fun hlow => hable.resolve_left (by omega)⟩
  · have hnondirected : ∀ n : Fin 32, n.val ∈ [0x18, 0x19, 0x1A, 0x1C, 0x1E] →
        n ≠ numReset ∧ ¬(n = numRestart ∨ n = numInterPu) := by decide
    obtain ⟨hreset, hdirected⟩ := hnondirected n hmem
    have hselected := (State.deliverable_cases hdeliver hreset).resolve_right fun h => hdirected h.1
    exact PU.preference_le (((s.selected_iff p n).mp hselected).2 q haccept)

end Sys2Proof.Machine
end

section
/-! PROOFS. The taken-branch trap (60_exceptions.md R349), and a return from an entry (R354, 45_control.md R322, R330;
L28). -/

namespace Sys2Proof.Machine

/-! ### A taken transfer with B set (R349) -/

section
variable {s : State} (target : HAddr) (h : s.cpu.flagB = true)
include h

theorem State.takeBranch_of_set : s.takeBranch target =
    { (s.modCpu (fun u => u.transfer target)).raise numIllegal with event := .finishedTrapping } :=
  if_pos h

/-- The trap is raised with the shadow and the target as the program counters. -/
theorem takeBranch_traps :
    (if s.cpu.flagT then (s.takeBranch target).AtEntry s.turn 0x16 ∧
        (s.takeBranch target).Saved s.turn s.cpu.sscr s.cpu.npc target
      else (s.takeBranch target).AtEntry s.turn 0x1E) ∧
    Unchanged s (s.takeBranch target) entryParts := by
  have hmoved : Unchanged s (s.modCpu (fun u => u.transfer target)) stepParts :=
    unchanged_transfer s target s.event
  have htrap := (s.modCpu (fun u => u.transfer target)).raise_takesTrap numIllegal
  have hframe := (hmoved.trans (State.modCpu_turn ..) (unchanged_raise _ (n := numIllegal) (by decide)
    (by decide))).trans ((State.raise_turn ..).trans (State.modCpu_turn ..)) (unchanged_withEvent _ .finishedTrapping)
  rw [State.takeBranch_of_set target h]
  refine ⟨?_, hframe.mono (by simp [stepParts, entryParts])⟩
  unfold TakesTrap at htrap
  rw [State.modCpu_cpu, State.modCpu_turn, show (s.cpu.transfer target).flagT = s.cpu.flagT from rfl] at htrap
  cases hT : s.cpu.flagT with
  | false =>
    rw [hT] at htrap
    exact State.AtEntry.withEvent htrap _
  | true =>
    rw [hT] at htrap
    obtain ⟨hentry, hsaved⟩ := htrap
    exact ⟨hentry.withEvent _, hsaved.withEvent _⟩

end

/-- Settles O25: `takeBranch` with B set, on JmpL after the write of R4. -/
theorem takenBranchTrap : Obligations.TakenBranchTrap := by
  intro s i target hB hi
  obtain ⟨cc, d, rfl, hc, rfl⟩ | ⟨d, rfl, rfl⟩ | ⟨ra, rfl | rfl, rfl⟩ := hi
  · obtain ⟨htrap, hframe⟩ := takeBranch_traps (pcAdd s.cpu.pc d) hB
    exact ⟨_, exec_bcc_of_taken d hc, htrap, by simp, hframe.mono (by simp)⟩
  · obtain ⟨htrap, hframe⟩ := takeBranch_traps (pcAdd s.cpu.pc d) hB
    exact ⟨_, rfl, htrap, by simp, hframe.mono (by simp)⟩
  · obtain ⟨htrap, hframe⟩ := takeBranch_traps ((s.rd ra).setWidth 30) hB
    exact ⟨_, exec_jmpA ra s, htrap, by simp, hframe.mono (by simp)⟩
  · have hlink := unchanged_wr s linkReg (zeroExtend30 (s.cpu.npc + 1))
    have hB' : (s.wr linkReg (zeroExtend30 (s.cpu.npc + 1))).cpu.flagB = true :=
      Eq.trans (hlink (.status 10) (by simp)) hB
    obtain ⟨htrap, hframe⟩ := takeBranch_traps ((s.rd ra).setWidth 30) hB'
    refine ⟨_, exec_jmpL ra s, ?_, fun _ => ?_, ?_⟩
    · rw [State.wr_turn, State.wr_cpu] at htrap
      simpa [PU.flagT] using htrap
    · have hreg := hframe (.reg linkReg) (by simp [entryParts])
      rw [← zeroExtend30_succ_toNat]
      exact congrArg BitVec.toNat (Eq.trans hreg (by simp))
    · exact (hlink.trans (State.wr_turn ..) hframe).mono (by simp [linkReg, Instr.form])

/-! ### The RtI pair at an entry (R354, 45_control.md R322) -/

theorem State.AtEntry.status {t : State} {p : PuId} {n : Nat} (h : t.AtEntry p n) {j : Nat} (hj : j < 16) :
    (t.pu p).sscr.getLsbD j = false := by
  obtain ⟨-, -, hmode, -⟩ := h
  have hbit : ((t.pu p).sscr.extractLsb' 0 16).getLsbD j = false := by
    rw [hmode]
    exact BitVec.getLsbD_zero
  simpa only [BitVec.getLsbD_extractLsb', Nat.zero_add, hj, decide_true, Bool.true_and] using hbit

/-- The first slot of a vector is no shadow. -/
theorem State.AtEntry.placed {t : State} {p : PuId} {n : Nat} (h : t.AtEntry p n) (hn : n < 32) :
    (t.pu p).misplaced = false := by
  obtain ⟨hpc, hnpc, -, -, -, -, -, -, -, hbranch⟩ := h
  have hnext : pcAdd (BitVec.ofNat 30 (8 * n)) 1 = BitVec.ofNat 30 (8 * n + 1) := by
    have hvector : (BitVec.ofNat 30 (8 * n)).toNat = 8 * n := Nat.mod_eq_of_lt (by omega)
    have hslot : (BitVec.ofNat 30 (8 * n + 1)).toNat = 8 * n + 1 := Nat.mod_eq_of_lt (by omega)
    have hinside := pcAdd_inside (BitVec.ofNat 30 (8 * n)) 1 (by omega) (by omega)
    exact BitVec.eq_of_toNat_eq (by omega)
  rw [PU.misplaced, hbranch, hpc, hnpc, hnext, bne_self_eq_false, Bool.or_false]

/-- From the entry of an exception the RtI pair leads back to the context saved there. -/
theorem returnPair_restores {s e : State} {n : Nat} {saved : HAddr × HAddr} {ps : List Part} (hn : n < 32)
    (hframe : Unchanged s e (entryParts ++ ps)) (hps : Part.model ∉ ps) (hentry : e.AtEntry s.turn n)
    (hsaved : e.Saved s.turn s.cpu.sscr saved.1 saved.2) :
    ∃ t u, exec .rtI e = .next t ∧ exec .rtI t = .next u ∧
      u.cpu.pc = saved.1 ∧ u.cpu.npc = saved.2 ∧ u.cpu.flagW = false ∧
      (∀ j < 32, j ≠ 25 → u.cpu.sscr.getLsbD j = s.cpu.sscr.getLsbD j) ∧ Unchanged s u (entryParts ++ ps) := by
  have hturn : e.turn = s.turn := hframe.turn (by simp [entryParts, hps])
  rw [← hturn] at hentry hsaved
  obtain ⟨-, hreturn⟩ := trapAndReturnInstructions
  obtain ⟨hfirst, -⟩ := hreturn e (hentry.status (j := 12) (by decide)) (hentry.status (j := 11) (by decide))
  obtain ⟨-, -, -, -, -, hrti, -⟩ := id hentry
  obtain ⟨t, ht, ⟨hpc, hnpc, -⟩, hhead, htail, hpair, htframe⟩ := hfirst hrti (hentry.placed hn)
  have hmode : ∀ b : Fin 32, b.val < 16 → t.cpu.sscr.getLsbD b.val = false := fun b hb =>
    (htframe (.status b) (by simp [stepParts])).trans (hentry.status hb)
  obtain ⟨-, hsecond⟩ := hreturn t (hmode 12 (by decide)) (hmode 11 (by decide))
  obtain ⟨u, hu, ⟨hupc, hunpc, -⟩, -, huW, hstatus, huframe⟩ := hsecond hpair
  obtain ⟨hstatusSaved, hheadSaved, htailSaved⟩ := hsaved
  have hsave : t.cpu.statusSave = s.cpu.sscr :=
    (htframe .statusSave (by simp [stepParts])).trans hstatusSaved
  refine ⟨t, u, ht, hu, ?_, ?_, huW, fun j hj hne => ?_, ?_⟩
  · exact hupc.trans (hnpc.trans hheadSaved)
  · exact hunpc.trans (hhead.trans htailSaved)
  · rw [hstatus j hj hne, hsave]
  · have hreturned : Unchanged e u entryParts :=
      (htframe.trans (htframe.turn (by simp [stepParts])) huframe).mono (by simp [stepParts, entryParts])
    refine (hframe.trans hturn hreturned).mono fun p hp => ?_
    simp only [List.mem_append] at hp ⊢
    tauto

/-- Settles O49: both entries save the context that the pair returns to. -/
theorem entryThenReturnRestores : Obligations.EntryThenReturnRestores := by
  intro s e saved hT hentry
  have hregs {u : State} {ps : List Part} (hu : Unchanged s u (entryParts ++ ps)) (hps : ∀ r, Part.reg r ∉ ps) :
      ∀ r, u.cpu.reg r = s.cpu.reg r := fun r => hu (.reg r) (by simp [entryParts, hps])
  obtain ⟨num, htrap, rfl⟩ | ⟨n, hacc, hn, rfl, rfl⟩ := hentry
  · obtain ⟨e', he', hframe, hat⟩ := exec_trap_enters s num
    obtain rfl : e' = e := Host.Outcome.next.inj (he'.symm.trans htrap)
    rw [hT] at hat
    obtain ⟨hvector, hsaved⟩ := hat
    obtain ⟨t, u, ht, hu, hpc, hnpc, hW, hstatus, hkept⟩ :=
      returnPair_restores (saved := (s.cpu.npc, pcAdd s.cpu.npc 1)) (ps := []) (by omega) (hframe.mono (by simp))
        (by simp) hvector hsaved
    exact ⟨t, u, ht, hu, hpc, hnpc, hW, hstatus, hregs hkept (by simp), hkept.mono (by simp)⟩
  · have horder : n ∈ interruptOrder := List.mem_of_find?_eq_some hacc
    obtain ⟨t, u, ht, hu, hpc, hnpc, hW, hstatus, hkept⟩ :=
      returnPair_restores (saved := (s.cpu.pc, s.cpu.npc)) n.isLt (unchanged_takeInterrupt hn horder) (by simp)
        (State.takeInterrupt_atEntry hn) (State.takeInterrupt_saved hn horder hT)
    exact ⟨t, u, ht, hu, hpc, hnpc, hW, hstatus, hregs hkept (by simp), hkept⟩

end Sys2Proof.Machine
end

section
/-! PROOFS. The event counters' count of instructions (60_exceptions.md R361, 10_state.md R61; L41). -/

namespace Sys2Proof.Machine

/-! ### What a counter is set to count (R61) -/

theorem puOf_eq_iff (n : BitVec 2) (q : PuId) : puOf n = q ↔ n.toNat = q.number := by
  revert n
  cases q <;> decide

/-- A configuration half selects the instructions of PU `q` in user mode, or in system mode. -/
def Counts (cfg : BitVec 8) (q : PuId) (mode : Bool) : Prop :=
  (cfg.extractLsb' 0 2).toNat = q.number ∧ (if mode then cfg.getLsbD 4 else cfg.getLsbD 5) = true

/-- A Wait that a configuration half selects ended in this step. -/
def State.WaitCounts (s : State) (cfg : BitVec 8) : Prop :=
  ∃ q, (s.pu q).waitEnded = true ∧ Counts cfg q (s.pu q).flagU

theorem counts_iff (cfg : BitVec 8) (q : PuId) (mode : Bool) :
    Counts cfg q mode ↔ puOf (cfg.extractLsb' 0 2) = q ∧ (if mode then cfg.getLsbD 4 else cfg.getLsbD 5) = true := by
  rw [puOf_eq_iff, Counts]

theorem State.waitCounts_iff (s : State) (cfg : BitVec 8) :
    s.WaitCounts cfg ↔ (s.pu (puOf (cfg.extractLsb' 0 2))).waitEnded = true ∧
      (if (s.pu (puOf (cfg.extractLsb' 0 2))).flagU then cfg.getLsbD 4 else cfg.getLsbD 5) = true := by
  simp only [WaitCounts, counts_iff]
  constructor
  · rintro ⟨q, hended, rfl, hmode⟩
    exact ⟨hended, hmode⟩
  · rintro ⟨hended, hmode⟩
    exact ⟨_, hended, rfl, hmode⟩

/-- Of the two modes a counter may select only one is that of the instruction. -/
theorem sum_over_modes (cfg : BitVec 8) (mode : Bool) (P : Prop) [Decidable P] (n : Nat) :
    (if cfg.getLsbD 5 then if P ∧ mode = false then n else 0 else 0) +
      (if cfg.getLsbD 4 then if P ∧ mode = true then n else 0 else 0) =
    if P ∧ (if mode then cfg.getLsbD 4 else cfg.getLsbD 5) = true then n else 0 := by
  cases mode <;> grind

open Classical in
/-- A counter of instructions advances by those of its own PU's step that it selects, and by a Wait that ends. -/
theorem State.counterAmount_eq (s : State) {cfg : BitVec 8} (began : Bool) (free : Nat)
    (hcycles : cfg.getLsbD 3 = false) (hevents : cfg.getLsbD 2 = false) :
    s.counterAmount cfg began free =
      (if Counts cfg s.turn began then instructionCount s.event else 0) + (if s.WaitCounts cfg then 1 else 0) := by
  have hsum : s.counterAmount cfg began free =
      (if cfg.getLsbD 5 then s.finishedBy (puOf (cfg.extractLsb' 0 2)) began false else 0) +
        (if cfg.getLsbD 4 then s.finishedBy (puOf (cfg.extractLsb' 0 2)) began true else 0) := by
    unfold counterAmount
    simp only [hcycles, hevents]
    cases cfg.getLsbD 5 <;> cases cfg.getLsbD 4 <;> rfl
  simp only [counts_iff, s.waitCounts_iff, ← sum_over_modes, hsum, finishedBy, ite_add_zero]
  exact add_add_add_comm ..

/-! ### A counter and its overflow bit after a step -/

/-- A counter goes up by `n`: modulo 2^32, with the overflow bit set where it wraps. -/
def GoesUp (cfg cfg' : BitVec 8) (v v' : Word) (n : Nat) : Prop :=
  v'.toNat = (v.toNat + n) % 2 ^ 32 ∧
    ∀ j < 8, cfg'.getLsbD j = (cfg.getLsbD j || (j == 6 && decide (2 ^ 32 ≤ v.toNat + n)))

theorem goesUp_counterConfig (cfg : BitVec 8) (v : Word) (n : Nat) :
    GoesUp cfg (counterConfig cfg v n) v (v + BitVec.ofNat 32 n) n := by
  have hbit : ∀ j < 8, (0x40 : BitVec 8).getLsbD j = (j == 6) := by decide
  refine ⟨by rw [BitVec.toNat_add, BitVec.toNat_ofNat, Nat.add_mod_mod], fun j hj => ?_⟩
  unfold counterConfig
  split
  · rw [BitVec.getLsbD_or, hbit j hj, decide_eq_true ‹_›, Bool.and_true]
  · rw [decide_eq_false ‹_›, Bool.and_false, Bool.or_false]

/-- The configuration halves after a step, whichever of them S10's is (L21). -/
theorem State.finishStep_configs (s : State) (user : Bool) :
    (s.finishStep user).config1 = counterConfig s.config1 s.s10 (s.amount1 user) ∧
      (s.finishStep user).config2 = counterConfig s.config2 s.s11 (s.amount2 user) := by
  have hs12 : (s.finishStep user).s12 = if Config.s12UpperIsS10 then
      (counterConfig s.config1 s.s10 (s.amount1 user) ++ counterConfig s.config2 s.s11 (s.amount2 user) :
        BitVec (8 + 8))
      else counterConfig s.config2 s.s11 (s.amount2 user) ++ counterConfig s.config1 s.s10 (s.amount1 user) := rfl
  generalize counterConfig s.config1 s.s10 (s.amount1 user) = c1 at hs12 ⊢
  generalize counterConfig s.config2 s.s11 (s.amount2 user) = c2 at hs12 ⊢
  rw [config1, config2, hs12]
  split
  · exact ⟨BitVec.extractLsb'_append_eq_left, BitVec.extractLsb'_append_eq_right⟩
  · exact ⟨BitVec.extractLsb'_append_eq_right, BitVec.extractLsb'_append_eq_left⟩

/-- Settles O11: both counters go up by `counterAmount`. -/
theorem instructionsCounted : Obligations.InstructionCount := by
  intro s user cfg cfg' v v' t hhalf hevents hcycles counts ends up
  obtain ⟨hfirst, hsecond⟩ := s.finishStep_configs user
  have hup : ∃ free, GoesUp cfg cfg' v v' (s.counterAmount cfg user free) := by
    obtain ⟨rfl, rfl, rfl, rfl⟩ | ⟨rfl, rfl, rfl, rfl⟩ := hhalf
    · rw [hfirst]
      exact ⟨_, goesUp_counterConfig ..⟩
    · rw [hsecond]
      exact ⟨_, goesUp_counterConfig ..⟩
  obtain ⟨free, hup⟩ := hup
  rw [s.counterAmount_eq user free hcycles hevents] at hup
  refine ⟨fun hevent => ?_, fun hevent => ?_⟩ <;> rw [hevent] at hup
  · refine ⟨fun (hown : Counts cfg s.turn user) (hends : s.WaitCounts cfg) => ?_,
      fun (hown : Counts cfg s.turn user) (hends : ¬s.WaitCounts cfg) => ?_,
      fun (hown : ¬Counts cfg s.turn user) (hends : s.WaitCounts cfg) => ?_,
      fun (hown : ¬Counts cfg s.turn user) (hends : ¬s.WaitCounts cfg) => ?_⟩
    · rwa [if_pos hown, if_pos hends] at hup
    · rwa [if_pos hown, if_neg hends] at hup
    · rwa [if_neg hown, if_pos hends] at hup
    · rwa [if_neg hown, if_neg hends] at hup
  · refine ⟨fun (hends : s.WaitCounts cfg) => ?_, fun (hends : ¬s.WaitCounts cfg) => ?_⟩
    · rwa [if_pos hends, instructionCount, ite_self] at hup
    · rwa [if_neg hends, instructionCount, ite_self] at hup

end Sys2Proof.Machine
end

section
/-! SUPPORT. What a user-mode instruction cannot reach (60_exceptions.md R360, R366): the system mode bits of SSCR and
the chip's privileged registers, and the shared operations that keep them: each said once. -/

namespace Sys2Proof.Machine

/-! ### The two relations -/

/-- The system mode bits of SSCR are the same, SSCR 15:8 (45_control.md R316). -/
def PU.ModeKept (u v : PU) : Prop := ∀ j, 8 ≤ j → j < 16 → v.sscr.getLsbD j = u.sscr.getLsbD j

/-- The chip's registers that O14 speaks of are the same. A PU of cluster 1 may write its window, and the event
configuration is user mode's to write where PRIV_SREGS leaves it out. -/
structure ChipKept (s t : State) : Prop where
  test : t.s4 = s.s4
  pageTable : t.s15 = s.s15
  argument : t.s14 = s.s14
  window : s.cpu.flagCN = false → t.window1 = s.window1
  config : s.privileged .eventConfig = true → t.s12 = s.s12

/-- From `s` to `t` the same PU executes, in the same mode, and the chip's registers are the same. -/
structure SystemKept (s t : State) : Prop extends ChipKept s t where
  turn : t.turn = s.turn
  params : t.params = s.params
  mode : s.cpu.ModeKept t.cpu

/-- From `s` to `t` the executing PU keeps its mode or enters an exception, and the chip's registers are the same. -/
structure Contained (s t : State) : Prop extends ChipKept s t where
  ends : (∃ n < 32, t.AtEntry s.turn n) ∨ s.cpu.ModeKept (t.pu s.turn)

theorem PU.ModeKept.refl (u : PU) : u.ModeKept u := fun _ _ _ => rfl

theorem PU.ModeKept.trans {u v w : PU} (h : u.ModeKept v) (h' : v.ModeKept w) : u.ModeKept w :=
  fun j hlow hhigh => (h' j hlow hhigh).trans (h j hlow hhigh)

theorem PU.ModeKept.withBit {u v : PU} (h : u.ModeKept v) {n : Nat} (b : Bool) (hn : n < 8 ∨ 16 ≤ n ∧ n < 32) :
    u.ModeKept (v.withBit n b) :=
  fun j hlow hhigh => (v.withBit_getLsbD b (by omega) (by omega)).trans (h j hlow hhigh)

theorem PU.ModeKept.flagU {u v : PU} (h : u.ModeKept v) : v.flagU = u.flagU := h _ (by decide) (by decide)

theorem PU.ModeKept.flagCN {u v : PU} (h : u.ModeKept v) : v.flagCN = u.flagCN := h _ (by decide) (by decide)

theorem ChipKept.refl (s : State) : ChipKept s s := ⟨rfl, rfl, rfl, fun _ => rfl, fun _ => rfl⟩

theorem SystemKept.refl (s : State) : SystemKept s s := ⟨.refl s, rfl, rfl, .refl _⟩

/-- The chip's part of what `ChipKept` compares. -/
def chipParts : List Part := [.test, .window, .eventConfig, .interruptArgument, .pageTable]

/-- What `SystemKept` compares. -/
def systemParts : List Part :=
  [.model, .status 8, .status 9, .status 10, .status 11, .status 12, .status 13, .status 14, .status 15] ++ chipParts

theorem status_mem_systemParts : ∀ b : Fin 32, 8 ≤ b.val → b.val < 16 → Part.status b ∈ systemParts := by decide

theorem ChipKept.of_unchanged {s t : State} {ps : List Part} (h : Unchanged s t ps) (hps : ∀ p ∈ chipParts, p ∉ ps) :
    ChipKept s t :=
  ⟨h .test (hps _ (by decide)), h .pageTable (hps _ (by decide)), h .interruptArgument (hps _ (by decide)),
    fun _ => h .window (hps _ (by decide)), fun _ => h .eventConfig (hps _ (by decide))⟩

theorem SystemKept.of_unchanged {s t : State} {ps : List Part} (h : Unchanged s t ps)
    (hps : ∀ p ∈ systemParts, p ∉ ps) : SystemKept s t := by
  obtain ⟨hparams, hturn, -⟩ : Part.Same s t .model := h _ (hps _ (by decide))
  refine ⟨.of_unchanged h fun p hp => hps p (List.mem_append_right _ hp), hturn, hparams, fun j hlow hhigh => ?_⟩
  exact h (.status ⟨j, by omega⟩) (hps _ (status_mem_systemParts _ hlow hhigh))

/-! ### The shared operations -/

section
variable {s t : State} (h : SystemKept s t)
include h

theorem SystemKept.chip_trans {v : State} (h' : ChipKept t v) : ChipKept s v where
  test := h'.test.trans h.test
  pageTable := h'.pageTable.trans h.pageTable
  argument := h'.argument.trans h.argument
  window hCN := (h'.window (h.mode.flagCN.trans hCN)).trans (h.window hCN)
  config hpriv := (h'.config (by rwa [State.privileged, h.params])).trans (h.config hpriv)

theorem SystemKept.trans {v : State} (h' : SystemKept t v) : SystemKept s v :=
  ⟨h.chip_trans h'.toChipKept, h'.turn.trans h.turn, h'.params.trans h.params, h.mode.trans h'.mode⟩

theorem SystemKept.contained_trans {v : State} (h' : Contained t v) : Contained s v := by
  refine ⟨h.chip_trans h'.toChipKept, ?_⟩
  rw [← h.turn]
  exact h'.ends.imp_right h.mode.trans

theorem SystemKept.contained : Contained s t := by
  refine ⟨h.toChipKept, .inr ?_⟩
  rw [← h.turn]
  exact h.mode

/-- An operation whose frame names nothing that is to be kept. -/
theorem SystemKept.unchanged {v : State} {ps : List Part} (hv : Unchanged t v ps)
    (hps : ∀ p ∈ systemParts, p ∉ ps) : SystemKept s v := h.trans (.of_unchanged hv hps)

theorem SystemKept.modCpu {f : PU → PU} (hf : t.cpu.ModeKept (f t.cpu)) : SystemKept s (t.modCpu f) := by
  refine h.trans ⟨?_, State.modCpu_turn .., State.modCpu_params .., ?_⟩
  · exact ⟨State.modCpu_s4 .., State.modCpu_s15 .., State.modCpu_s14 .., fun _ => State.modCpu_window1 ..,
      fun _ => State.modCpu_s12 ..⟩
  · rw [State.modCpu_cpu]
    exact hf

theorem SystemKept.withEvent (e : StepEvent) : SystemKept s { t with event := e } :=
  h.unchanged (unchanged_withEvent t e) (by simp)

theorem SystemKept.stay : SystemKept s t.stay := h.withEvent _

theorem SystemKept.wr (r : Reg) (v : Word) : SystemKept s (t.wr r v) :=
  h.unchanged (unchanged_wr t r v) (by simp [systemParts, chipParts])

theorem SystemKept.setFlags (f : Flags) : SystemKept s (t.setFlags f) :=
  h.unchanged (unchanged_setFlags t f) (by decide)

theorem SystemKept.setNZ (n z : Bool) : SystemKept s (t.setNZ n z) :=
  h.unchanged (unchanged_setNZ t n z) (by decide)

theorem SystemKept.setNZkeepV (n z : Bool) : SystemKept s (t.setNZkeepV n z) :=
  h.unchanged (unchanged_setNZkeepV t n z) (by decide)

theorem SystemKept.advance : SystemKept s t.advance := h.unchanged (unchanged_advance t) (by decide)

theorem SystemKept.advanceExtended : SystemKept s t.advanceExtended :=
  h.unchanged (unchanged_sequentialExtended t) (by decide)

theorem SystemKept.advanceBranch : SystemKept s t.advanceBranch :=
  h.unchanged (unchanged_advanceBranch t) (by decide)

theorem SystemKept.withRCnt (k : BitVec 4) : SystemKept s (t.modCpu (fun u => u.withRCnt k)) :=
  h.unchanged (unchanged_withRCnt t k) (by decide)

theorem SystemKept.withRest (r : Option Rest) : SystemKept s (t.withRest r) :=
  h.unchanged (unchanged_withRest t r) (by decide)

/-- A change of memory, the TLB, the caches and the record of stores. -/
theorem SystemKept.withMemory (l : List TlbEntry) (c : Vector CacheSet 16) (m : Memory) (i : List FetchLine)
    (q : List StoredHalf) : SystemKept s { t with tlb := l, dcache := c, mem := m, icache := i, stored := q } := by
  have hcpu : ({ t with tlb := l, dcache := c, mem := m, icache := i, stored := q } : State).cpu = t.cpu := rfl
  refine h.trans ⟨⟨rfl, rfl, rfl, fun _ => rfl, fun _ => rfl⟩, rfl, rfl, ?_⟩
  rw [hcpu]
  exact .refl _

/-! ### Memory, caches and semaphores -/

theorem SystemKept.fillTlb (va : VAddr) : SystemKept s (t.fillTlb va) :=
  h.unchanged (unchanged_fillTlb t va) (by decide)

theorem SystemKept.loadWord {wa : WAddr} {v : Word} {u : State} (hload : t.loadWord wa = .ok (v, u)) :
    SystemKept s u := by
  obtain ⟨pa, d, l, c, -, -, rfl⟩ | ⟨-, -, l, rfl⟩ := State.loadWord_ok hload
  · exact h.withMemory l c _ t.icache t.stored
  · exact h.withMemory l t.dcache t.mem t.icache t.stored

theorem SystemKept.storeWord {wa : WAddr} {v : Word} {u : State} (hstore : t.storeWord wa v = .ok u) :
    SystemKept s u := by
  obtain ⟨pa, d, l, c, -, rfl⟩ | ⟨-, l, rfl⟩ := State.storeWord_ok hstore
  · exact h.withMemory l c _ t.icache _
  · exact h.withMemory l t.dcache t.mem t.icache t.stored

theorem SystemKept.loadByte {va : VAddr} {b : Byte} {u : State} (hload : t.loadByte va = .ok (b, u)) :
    SystemKept s u := by
  obtain ⟨pa, d, l, c, -, -, rfl⟩ | ⟨-, -, l, rfl⟩ := State.loadByte_ok hload
  · exact h.withMemory l c _ t.icache t.stored
  · exact h.withMemory l t.dcache t.mem t.icache t.stored

theorem SystemKept.storeByte {va : VAddr} {b : Byte} {u : State} (hstore : t.storeByte va b = .ok u) :
    SystemKept s u := by
  obtain ⟨pa, d, l, c, -, rfl⟩ | ⟨-, l, rfl⟩ := State.storeByte_ok hstore
  · exact h.withMemory l c _ t.icache _
  · exact h.withMemory l t.dcache t.mem t.icache t.stored

theorem SystemKept.fetchHalf {a : HAddr} {w : Half} {u : State} (hfetch : t.fetchHalf a = .ok (w, u)) :
    SystemKept s u :=
  h.unchanged (unchanged_of_fetchHalf hfetch) (by decide)

theorem SystemKept.setSems (cn : Bool) (v : BitVec 8) : SystemKept s (t.setSems cn v) := by
  unfold State.setSems
  split
  all_goals exact h.trans ⟨⟨rfl, rfl, rfl, fun _ => rfl, fun _ => rfl⟩, rfl, rfl, .refl _⟩

theorem SystemKept.endDirect (cn : Bool) (disp : Nat) (b : Bool) : SystemKept s (t.endDirect cn disp b) := by
  unfold State.endDirect
  split
  · exact (h.setSems _ _).advance
  · exact h.advance

theorem SystemKept.freeze (cn : Bool) (disp : Nat) (b : Bool) : SystemKept s (t.freeze cn disp b) :=
  (h.modCpu (.refl _)).stay

/-- A change of memory and the data cache. -/
theorem SystemKept.of_cache {v : State} (hv : ∃ m c, v = { t with mem := m, dcache := c }) : SystemKept s v := by
  obtain ⟨m, c, rfl⟩ := hv
  exact h.withMemory t.tlb c m t.icache t.stored

theorem SystemKept.noteWritten (pa : PAddr) : SystemKept s (t.noteWritten pa) :=
  h.withMemory t.tlb t.dcache t.mem t.icache _

theorem SystemKept.dropFetch (pa : PAddr) : SystemKept s (t.dropFetch pa) :=
  h.withMemory t.tlb t.dcache t.mem _ _

theorem SystemKept.prefetchInst (pa : PAddr) : SystemKept s (t.prefetchInst pa) :=
  h.unchanged (unchanged_prefetchInst t pa) (by decide)

/-! ### Runs of LdM and StM (40_load_store_move.md R165, R175) -/

theorem SystemKept.freeRun (k : Nat) : SystemKept s (t.freeRun k) := by
  induction k generalizing t with
  | zero => exact h
  | succ k ih => exact ih (h.wr _ _)

theorem SystemKept.freeOverlap (x : Transfer) : SystemKept s (t.freeOverlap x) := by
  unfold State.freeOverlap
  split
  · exact h.freeRun _
  · exact h

theorem SystemKept.faultAddress (ra : Reg) (a : Word) (n k : Nat) : SystemKept s (t.faultAddress ra a n k) := by
  unfold State.faultAddress
  split
  · exact h.wr _ _
  · exact h

theorem SystemKept.runOn (x : Transfer) : SystemKept s (t.runOn x) := SystemKept.stay (h.modCpu (.refl _))

/-! ### Other PUs (45_control.md R320, R325, R328) -/

/-- A change of the PUs that a mask names, the executing PU perhaps among them. -/
theorem SystemKept.forPus {f : PU → PU} (m : BitVec 4) (hf : ∀ u : PU, u.ModeKept (f u)) :
    SystemKept s (t.forPus (targets m) f) := by
  refine h.trans ⟨?_, t.forPus_turn _ _, ?_, ?_⟩
  · rw [t.forPus_eq]
    exact ⟨rfl, rfl, rfl, fun _ => rfl, fun _ => rfl⟩
  · rw [t.forPus_eq]
  · rw [t.forTargets_cpu]
    split
    · exact hf _
    · exact .refl _

theorem SystemKept.haltedSlot : SystemKept s t.haltedSlot := h.unchanged (unchanged_haltedSlot t) (by decide)

end

theorem PU.resume_modeKept (u : PU) : u.ModeKept u.resume :=
  fun _ hlow hhigh => u.resume_status (by omega) (by omega)

theorem PU.start_modeKept (u : PU) (a : HAddr) : u.ModeKept (u.start a) := by
  intro j hlow hhigh
  rw [PU.start_status, if_neg (by omega), if_neg (by omega)]

/-! ### Traps -/

theorem contained_raiseAt (s : State) {n : Fin 32} (sv : HAddr × HAddr) (hcounter : n ≠ numEventCounter)
    (hexternal : n ≠ numExternal) : Contained s (s.raiseAt n sv) := by
  refine ⟨.of_unchanged (unchanged_raiseAt s sv hcounter hexternal) (by decide), .inl ⟨_, ?_, s.raiseAt_atEntry n sv⟩⟩
  split
  · exact n.isLt
  · decide

theorem Contained.withEvent {s t : State} (h : Contained s t) (e : StepEvent) : Contained s { t with event := e } := by
  have hpu : ({ t with event := e } : State).pu s.turn = t.pu s.turn := State.pu_with_event ..
  refine ⟨⟨h.test, h.pageTable, h.argument, h.window, h.config⟩, ?_⟩
  rw [hpu]
  exact h.ends.imp_left fun ⟨n, hn, hentry⟩ => ⟨n, hn, hentry.withEvent e⟩

section
variable {s t : State} (h : SystemKept s t)
include h

theorem SystemKept.raise {n : Fin 32} (hcounter : n ≠ numEventCounter) (hexternal : n ≠ numExternal) :
    Contained s (t.raise n) :=
  h.contained_trans (contained_raiseAt t _ hcounter hexternal)

theorem SystemKept.raiseIllegal : Contained s t.raiseIllegal := h.raise (by decide) (by decide)

theorem SystemKept.dataFault (f : MemFault) (ptr : Word) : Contained s (t.dataFault f ptr) := by
  have hrecorded : SystemKept s (t.recordArgument ptr) := h.unchanged (unchanged_recordArgument t ptr) (by decide)
  cases f <;> exact hrecorded.raise (by decide) (by decide)

theorem SystemKept.fetchFault (second : Bool) (f : MemFault) (a : HAddr) : Contained s (t.fetchFault second f a) := by
  have hmarked : SystemKept s (t.modCpu fun u => u.withBit bitSH second) :=
    h.modCpu ((PU.ModeKept.refl _).withBit _ (by decide))
  cases f with
  | nodeBusy => exact (hmarked.unchanged (unchanged_recordArgument _ _) (by decide)).raise (by decide) (by decide)
  | pageFault | accessFault => exact hmarked.raise (by decide) (by decide)

theorem SystemKept.takeBranch (a : HAddr) : Contained s (t.takeBranch a) := by
  have hmoved : SystemKept s (t.modCpu fun u => u.transfer a) := h.modCpu (.refl _)
  unfold State.takeBranch
  dsimp only
  split
  · exact hmoved.raiseIllegal.withEvent _
  · exact (hmoved.withEvent _).contained

theorem SystemKept.loadInto (rb : Reg) (wa : WAddr) {adv : State → State}
    (hadv : ∀ u, SystemKept s u → SystemKept s (adv u)) : Contained s (t.loadInto rb wa adv) := by
  unfold State.loadInto
  split
  · exact h.dataFault _ _
  · exact (hadv _ ((h.loadWord ‹_›).wr _ _)).contained

theorem SystemKept.storeFrom (wa : WAddr) (v : Word) {adv : State → State}
    (hadv : ∀ u, SystemKept s u → SystemKept s (adv u)) : Contained s (t.storeFrom wa v adv) := by
  unfold State.storeFrom
  split
  · exact h.dataFault _ _
  · exact (hadv _ (h.storeWord ‹_›)).contained

theorem SystemKept.cacheOp (a : WAddr) (k : AccessKind) {op : State → PAddr → PageDesc → State}
    (hop : ∀ u pa d, SystemKept s u → SystemKept s (op u pa d)) : Contained s (t.cacheOp a k op) := by
  obtain ⟨f, heq⟩ | heq | heq | ⟨pa, d, heq⟩ := t.cacheOp_cases a k op <;> rw [heq]
  · exact h.dataFault _ _
  · exact h.advance.contained
  · exact (h.fillTlb _).advance.contained
  · exact (hop _ _ _ (h.fillTlb _)).advance.contained

theorem SystemKept.loadTransfer (x : Transfer) : Contained s (t.loadTransfer x) := by
  have hcounted : SystemKept s (t.atCount x) := h.withRCnt _
  unfold State.loadTransfer
  dsimp only
  split
  · exact (((hcounted.withRCnt _).faultAddress ..).freeOverlap x).dataFault _ _
  · rename_i v u hload
    have hloaded : SystemKept s (u.wr x.next v) := (hcounted.loadWord hload).wr _ _
    split
    · exact ((((hloaded.wr _ _).freeOverlap x).withRCnt _).advance).contained
    · exact (hloaded.runOn x).contained

theorem SystemKept.storeTransfer (x : Transfer) : Contained s (t.storeTransfer x) := by
  have hcounted : SystemKept s ((t.wr x.addr x.storeAddress).atCount x) := (h.wr _ _).withRCnt _
  unfold State.storeTransfer
  dsimp only
  split
  · exact ((hcounted.freeOverlap x).withRCnt _).dataFault _ _
  · rename_i u hstore
    have hstored : SystemKept s u := hcounted.storeWord hstore
    split
    · exact (hstored.freeOverlap x).advance.contained
    · exact (hstored.runOn x).contained

theorem SystemKept.transferOne (x : Transfer) : Contained s (t.transferOne x) := by
  unfold State.transferOne
  split
  · exact h.loadTransfer x
  · exact h.storeTransfer x

theorem SystemKept.commitAdd (rb : Reg) (r : Word × Flags) : Contained s (t.commitAdd rb r) := by
  have hstored : SystemKept s ((t.wr rb r.1).setFlags r.2) := (h.wr _ _).setFlags _
  unfold State.commitAdd
  dsimp only
  split
  · split
    · exact hstored.raise (by decide) (by decide)
    · exact h.raise (by decide) (by decide)
  · exact hstored.advance.contained

theorem SystemKept.commitField (r : Reg) (f : Fin 32 → Fin 32 → Word) : SystemKept s (t.commitField r f) := by
  unfold State.commitField
  split <;> exact ((h.wr _ _).setNZ _ _).advance

theorem SystemKept.divide (rb : Reg) (q r : Word) : SystemKept s (t.divide rb q r) := (h.modCpu (.refl _)).advance

theorem SystemKept.divideTrap : Contained s t.divideTrap :=
  SystemKept.raise (h.modCpu (.refl _)) (by decide) (by decide)

end

end Sys2Proof.Machine
end

section
/-! PROOFS. User mode is contained (60_exceptions.md R360, R366, 10_state.md R41, R66, 70_reset_and_hazards.md R390):
each instruction, each way through a step, and the end of a step. -/

namespace Sys2Proof.Machine

/-! ### Instructions -/

/-- Mov to Special in user mode names no privileged register, and the window only in cluster 1. -/
theorem SystemKept.writeSpecial {s v : State} {sp : SReg} {x : Word} (hprivileged : s.privileged sp = false)
    (hwrite : s.writeSpecial sp x = some v) : SystemKept s v := by
  have hs := SystemKept.refl s
  cases sp <;> cases hwrite
  case interruptArgument | pageTableOrigin => simp [State.privileged, privSRegs] at hprivileged
  case eventConfig =>
    exact ⟨⟨rfl, rfl, rfl, fun _ => rfl, fun hconfig => absurd hconfig (ne_true_of_eq_false hprivileged)⟩, rfl, rfl,
      .refl _⟩
  case window =>
    have hsems := hs.setSems s.cpu.flagCN (s6Sems x)
    split
    · rename_i hCN
      exact ⟨⟨hsems.test, hsems.pageTable, hsems.argument, fun hno => absurd hCN (ne_true_of_eq_false hno),
        hsems.config⟩, hsems.turn, hsems.params, hsems.mode⟩
    · exact hsems
  case mask | statusSave | trapArgument | pcSaveQueue => exact hs.modCpu (.refl _)
  case remainder | product => exact hs.modCpu ((PU.ModeKept.refl _).withBit _ (by decide))
  case eventCounter1 | eventCounter2 => exact ⟨⟨rfl, rfl, rfl, fun _ => rfl, fun _ => rfl⟩, rfl, rfl, .refl _⟩

theorem PU.low_of_modeBitAllowed {u : PU} {n : Fin 16} (huser : u.flagU = true) (h : ¬u.modeBitDenied n = true) :
    n.val < 8 := by
  by_contra hhigh
  exact h (PU.modeBitDenied_of_denied (.inr ⟨by omega, huser⟩))

/-- An instruction of a PU in user mode. -/
theorem exec_contained {i : Instr} {s t : State} (huser : s.cpu.flagU = true) (h : exec i s = .next t) :
    Contained s t := by
  have hs := SystemKept.refl s
  cases i with
  | cdc ra =>
    cases h
    exact hs.cacheOp _ _ fun u pa d hu => hu.of_cache ⟨_, _, u.createLine_eq pa d⟩
  | fdc ra =>
    cases h
    exact hs.cacheOp _ _ fun u pa _ hu => (hu.of_cache (u.flushLine_eq pa)).noteWritten pa
  | idc ra =>
    cases h
    exact hs.cacheOp _ _ fun u pa _ hu => hu.of_cache (u.invalidateLine_eq pa)
  | udc ra =>
    cases h
    exact hs.cacheOp _ _ fun u pa _ hu => (hu.of_cache ⟨u.mem, u.updateLine_eq pa⟩).noteWritten pa
  | vdc ra =>
    cases h
    exact hs.cacheOp _ _ fun u pa _ hu => hu.of_cache ⟨u.mem, u.validateLine_eq pa⟩
  | pdc ra =>
    cases h
    exact hs.cacheOp _ _ fun u pa d hu => hu.of_cache (u.prefetchData_eq pa d)
  | iic ra =>
    cases h
    exact hs.cacheOp _ _ fun u pa _ hu => hu.dropFetch pa
  | picA ra | picR disp =>
    cases h
    exact hs.cacheOp _ _ fun u pa _ hu => hu.prefetchInst pa
  | ldWB rb base disp | ldWR rb ra =>
    cases h
    exact hs.loadInto _ _ fun _ hu => hu.advance
  | stWB rb base disp | stWR rb base =>
    cases h
    exact hs.storeFrom _ _ fun _ hu => hu.advance
  | ldWD rb disp =>
    rw [exec_ldWD] at h
    split at h <;> cases h
    · exact (hs.freeze _ _ _).contained
    · exact hs.loadInto _ _ fun _ hu => hu.endDirect _ _ _
  | stWD rb disp =>
    rw [exec_stWD] at h
    split at h <;> cases h
    · exact (hs.freeze _ _ _).contained
    · exact hs.storeFrom _ _ fun _ hu => hu.endDirect _ _ _
  | ldWE rb ra disp =>
    rw [exec_ldWE] at h
    split at h <;> cases h
    exact hs.loadInto _ _ fun _ hu => hu.advanceExtended
  | stWE rb base disp =>
    rw [exec_stWE] at h
    split at h <;> cases h
    exact hs.storeFrom _ _ fun _ hu => hu.advanceExtended
  | ldB d p =>
    have hstepped := hs.wr p (nextBytePtr (s.rd p))
    cases hload : (s.wr p (nextBytePtr (s.rd p))).loadByte (byteOfPointer (s.rd p)) with
    | error f =>
      rw [exec_ldB_of_fault hload] at h
      cases h
      exact hstepped.dataFault _ _
    | ok r =>
      rw [exec_ldB_of_ok hload] at h
      cases h
      exact ((hstepped.loadByte hload).wr _ _).advance.contained
  | stB d p =>
    have hstepped := hs.wr p (nextBytePtr (s.rd p))
    cases hstore : (s.wr p (nextBytePtr (s.rd p))).storeByte (byteOfPointer (s.rd p))
        ((s.rd d).extractLsb' 0 8) with
    | error f =>
      rw [exec_stB_of_fault hstore] at h
      cases h
      exact hstepped.dataFault _ _
    | ok u =>
      rw [exec_stB_of_ok hstore] at h
      cases h
      exact (hstepped.storeByte hstore).advance.contained
  | ldM rb ra | stM rb ra =>
    simp only [exec, execLdM, execStM] at h
    split at h <;> cases h
    exact hs.transferOne _
  | div rb ra =>
    have hcleared : SystemKept s (s.modCpu (fun u => u.withBit bitF false)) :=
      hs.modCpu ((PU.ModeKept.refl _).withBit _ (by decide))
    simp only [exec, execDiv] at h
    split at h
    · cases h
      split
      · exact hcleared.divideTrap
      · exact (hcleared.divide _ _ _).contained
    · split at h <;> cases h
      · split
        · exact hcleared.divideTrap
        · exact (hcleared.divide _ _ _).contained
      · exact (hcleared.divide _ _ _).contained
  | mul rb ra =>
    cases h
    exact (hs.modCpu ((PU.ModeKept.refl _).withBit _ (by decide))).advance.contained
  | mulP rb ra =>
    cases h
    exact ((hs.wr _ _).modCpu ((PU.ModeKept.refl _).withBit _ (by decide))).advance.contained
  | movTS rb sp =>
    simp only [exec, execMovTS] at h
    split at h
    · cases h
      exact hs.raiseIllegal
    · rename_i hallowed
      split at h <;> cases h
      refine (SystemKept.writeSpecial (sp := sp) ?_ ‹_›).advance.contained
      simp_all [State.sregDenied]
  | rtI | res m | int m | iicA | itlb | rdtx rb ra =>
    rw [exec_of_privileged huser (by simp [Instr.form])] at h
    cases h
    exact hs.raiseIllegal
  | trap num =>
    obtain ⟨v, hexec, hframe, hentry⟩ := exec_trap_enters s num
    cases hexec.symm.trans h
    refine ⟨.of_unchanged hframe (by decide), .inl ?_⟩
    split at hentry
    · exact ⟨_, by omega, hentry.1⟩
    · exact ⟨_, by decide, hentry⟩
  | clrM bit | setM bit =>
    simp only [exec, execClrM, execSetM] at h
    split at h <;> cases h
    · exact hs.raiseIllegal
    · exact (hs.modCpu ((PU.ModeKept.refl _).withBit _ (.inl (PU.low_of_modeBitAllowed huser ‹_›)))).advance.contained
  | tstM bit =>
    simp only [exec, execTstM] at h
    split at h <;> cases h
    · exact hs.raiseIllegal
    · exact (hs.unchanged (unchanged_setCarry s _) (by decide)).advance.contained
  | movFS rb sp =>
    simp only [exec, execMovFS] at h
    split at h <;> cases h
    · exact hs.raiseIllegal
    · exact (hs.wr _ _).advance.contained
  | wait m =>
    rw [exec_wait] at h
    cases h
    exact (hs.unchanged (unchanged_inWait s m) (by decide)).haltedSlot.contained
  | rsm m =>
    simp only [exec, execRsm] at h
    split at h <;> cases h
    · exact hs.stay.contained
    · exact (hs.forPus m PU.resume_modeKept).advance.contained
  | send rb m =>
    simp only [exec, execSend] at h
    split at h <;> cases h
    · exact hs.stay.contained
    · refine SystemKept.contained (SystemKept.advance (hs.forPus m ?_))
      exact fun _ => .refl _
  | strt rb m =>
    simp only [exec, execStrt] at h
    repeat' split at h
    all_goals cases h
    · exact hs.stay.contained
    · exact (hs.forPus m fun u => u.start_modeKept _).advance.contained
  | tstF ra =>
    simp only [exec, execTstF] at h
    split at h <;> cases h <;> exact (hs.setNZ _ _).advance.contained
  | bcc cc disp =>
    simp only [exec, execBcc] at h
    split at h <;> cases h
    · exact hs.takeBranch _
    · exact hs.advanceBranch.contained
  | skcc cc =>
    simp only [exec, execSkcc] at h
    split at h <;> cases h
    · exact (hs.modCpu ((PU.ModeKept.refl _).withBit _ (by decide))).advanceBranch.contained
    · exact hs.advanceBranch.contained
  | shL rb amt | shR ra amt =>
    simp only [exec, execShL, execShR] at h
    split at h <;> cases h <;> exact ((hs.wr _ _).setNZkeepV _ _).advance.contained
  | jmpR disp | jmpA ra =>
    cases h
    exact hs.takeBranch _
  | jmpL ra =>
    cases h
    exact (hs.wr _ _).takeBranch _
  | add rb ra | addI rb imm | addC rb ra | sub rb ra | subI rb imm | subC rb ra | neg rb ra =>
    cases h
    exact hs.commitAdd _ _
  | addP rb ra | adCP rb ra | subP rb ra | sbCP rb ra =>
    cases h
    exact ((hs.wr _ _).setFlags _).advance.contained
  | dep rb ra | ins rb ra | extU rb ra | extS rb ra | dSh rb ra =>
    cases h
    exact (hs.commitField _ _).contained
  | mskI pos len | mskR ra len =>
    cases h
    exact SystemKept.contained (SystemKept.advance (hs.modCpu (.refl _)))
  | cmp rb ra | cmpI rb imm | cmpP rb ra =>
    cases h
    exact (hs.setFlags _).advance.contained
  | adPC ra | ld rb imm | ldCP ra | lcc rb cc | mov rb ra | clrF ra | setF ra =>
    cases h
    exact (hs.wr _ _).advance.contained
  | clz rb ra | and rb ra | andC rb ra | xOr rb ra | not rb ra =>
    cases h
    exact ((hs.wr _ _).setNZ _ _).advance.contained
  | or rb ra =>
    cases h
    exact ((hs.wr _ _).setNZkeepV _ _).advance.contained

/-! ### What stands in an instruction's place (10_state.md R34) -/

theorem contained_continueRun (s : State) : Contained s s.continueRun := by
  have hs := SystemKept.refl s
  unfold State.continueRun
  split
  · exact hs.transferOne _
  all_goals exact hs.contained

/-- Without an interrupt, a run goes on, a halted or frozen PU stays, or a slot is skipped. -/
theorem contained_preempt {s v : State} (haccepted : s.accepted = none) (h : s.preempt = some (.next v)) :
    Contained s v := by
  have hs := SystemKept.refl s
  simp only [State.preempt, haccepted] at h
  repeat' split at h
  all_goals cases h
  · exact contained_continueRun s
  · exact hs.haltedSlot.contained
  · exact (hs.unchanged (unchanged_skipSlot s) (by decide)).contained
  · exact hs.stay.contained

theorem contained_fetchDecode_error {s v : State} (h : s.fetchDecode = .error (.next v)) : Contained s v := by
  have hs := SystemKept.refl s
  obtain ⟨second, f, a, rfl⟩ | ⟨a, w, u, hfetch, rfl | ⟨r, rfl⟩⟩ := State.fetchDecode_error_next h
  · exact hs.fetchFault _ _ _
  · exact (hs.fetchHalf hfetch).raiseIllegal
  · exact ((hs.fetchHalf hfetch).withRest _).stay.contained

theorem systemKept_fetchDecode_ok {s u : State} {i : Instr} (h : s.fetchDecode = .ok (i, u)) : SystemKept s u := by
  have hs := SystemKept.refl s
  obtain ⟨-, rfl⟩ | ⟨w, rest, hfetch, -⟩ := State.fetchDecode_ok _ _ _ h
  · exact hs.withRest _
  · exact hs.fetchHalf hfetch

/-- An accepted interrupt enters an exception, or is a Reset that halts the PU in system mode (R353, R390). -/
theorem State.takeInterrupt_contained (s : State) (n : Fin 32) :
    (s.takeInterrupt n).AtEntry s.turn n.val ∨ n = numReset ∧
      ((s.takeInterrupt n).pu s.turn).sscr.extractLsb' 0 16 = 0 ∧ ((s.takeInterrupt n).pu s.turn).flagW = true := by
  by_cases hn : n = numReset
  · subst hn
    obtain ⟨hpc, hnpc, hmode, hW, hrest⟩ := (s.pu s.turn).resetBy_entry s.turn s.tick (s.resets s.turn)
    unfold State.AtEntry
    rw [State.takeInterrupt_reset_pu]
    cases henters : s.resets s.turn with
    | true =>
      rw [henters] at hpc hnpc hmode hW hrest
      exact .inl ⟨hpc, hnpc, hmode, hW, hrest⟩
    | false =>
      rw [henters] at hmode hW
      exact .inr ⟨rfl, hmode, hW⟩
  · exact .inl (State.takeInterrupt_atEntry hn)

/-! ### The end of a step (60_exceptions.md R361, 70_reset_and_hazards.md R398) -/

/-- What `State.AtEntry` speaks of is the same: the status, the program counters and the hidden marks. -/
structure PU.ControlKept (u v : PU) : Prop where
  pc : v.pc = u.pc
  npc : v.npc = u.npc
  sscr : v.sscr = u.sscr
  rti1 : v.rti1 = u.rti1
  waitSem : v.waitSem = u.waitSem
  run : v.run = u.run
  waitMask : v.waitMask = u.waitMask
  afterBranch : v.afterBranch = u.afterBranch

theorem PU.ControlKept.settle {u v : PU} (h : u.ControlKept v) (p : PuId) (tick : Nat) (e : InFlight) :
    u.ControlKept (PU.settle p tick v e) := by
  obtain ⟨hpc, hnpc, hsscr, hrti, hsem, hrun, hmask, hbranch⟩ := h
  unfold PU.settle
  split
  · cases e.dest <;> exact ⟨hpc, hnpc, hsscr, hrti, hsem, hrun, hmask, hbranch⟩
  · exact ⟨hpc, hnpc, hsscr, hrti, hsem, hrun, hmask, hbranch⟩

theorem PU.ControlKept.foldl_settle {u v : PU} (h : u.ControlKept v) (p : PuId) (tick : Nat) (es : List InFlight) :
    u.ControlKept (es.foldl (PU.settle p tick) v) := by
  induction es generalizing v with
  | nil => exact h
  | cons e es ih => exact ih (h.settle p tick e)

theorem State.finishStep_control (s : State) (user : Bool) (p : PuId) :
    (s.pu p).ControlKept ((s.finishStep user).pu p) := by
  have hself : (s.pu p).ControlKept (s.pu p) := ⟨rfl, rfl, rfl, rfl, rfl, rfl, rfl, rfl⟩
  rw [State.finishStep_pu]
  unfold State.retired
  dsimp only
  split
  · obtain ⟨hpc, hnpc, hsscr, hrti, hsem, hrun, hmask, hbranch⟩ := hself.foldl_settle p s.tick (s.pu p).inflight
    exact ⟨hpc, hnpc, hsscr, hrti, hsem, hrun, hmask, hbranch⟩
  · exact ⟨rfl, rfl, rfl, rfl, rfl, rfl, rfl, rfl⟩

theorem State.AtEntry.finishStep {s : State} {p : PuId} {n : Nat} (h : s.AtEntry p n) (user : Bool) :
    (s.finishStep user).AtEntry p n := by
  obtain ⟨hpc, hnpc, hsscr, hrti, hsem, hrun, hmask, hbranch⟩ := s.finishStep_control user p
  unfold AtEntry PU.flagW PU.flagS at h ⊢
  rwa [hpc, hnpc, hsscr, hrti, hsem, hrun, hmask, hbranch]

/-- Each bit of the configuration is one of the two halves', whichever of them S10's is (L21). -/
theorem State.s12_getLsbD (s : State) {j : Nat} (hj : j < 16) : s.s12.getLsbD j =
    if Config.s12UpperIsS10 = decide (8 ≤ j) then s.config1.getLsbD (j % 8) else s.config2.getLsbD (j % 8) := by
  have hmod : j % 8 < 8 := Nat.mod_lt _ (by decide)
  unfold config1 config2
  by_cases hhalf : 8 ≤ j
  · rw [show j = 8 + j % 8 by omega]
    cases Config.s12UpperIsS10 <;> simp [hmod, -BitVec.getLsbD_eq_getElem]
  · rw [show j % 8 = j by omega]
    cases Config.s12UpperIsS10 <;> simp [hhalf, show j < 8 by omega, -BitVec.getLsbD_eq_getElem]

theorem counterConfig_getLsbD (cfg : BitVec 8) (v : Word) (n : Nat) {j : Nat} (hj : j < 8) (hoverflow : j ≠ 6) :
    (counterConfig cfg v n).getLsbD j = cfg.getLsbD j := by
  obtain ⟨-, hbits⟩ := goesUp_counterConfig cfg v n
  rw [hbits j hj, beq_false_of_ne hoverflow, Bool.false_and, Bool.or_false]

/-- Counting changes no bit of the configuration but the overflow bits, 6 of each half. -/
theorem State.finishStep_s12_getLsbD (s : State) (user : Bool) {j : Nat} (hj : j < 16) (hlow : j ≠ 6)
    (hhigh : j ≠ 14) : (s.finishStep user).s12.getLsbD j = s.s12.getLsbD j := by
  obtain ⟨hfirst, hsecond⟩ := s.finishStep_configs user
  have hmod : j % 8 < 8 := Nat.mod_lt _ (by decide)
  rw [State.s12_getLsbD _ hj, State.s12_getLsbD _ hj, hfirst, hsecond, counterConfig_getLsbD _ _ _ hmod (by omega),
    counterConfig_getLsbD _ _ _ hmod (by omega)]

/-! ### Steps -/

/-- A step without an interrupt, until its end. -/
theorem step_contained {s v : State} (huser : s.cpu.flagU = true) (haccepted : s.accepted = none)
    (h : s.preempt = some (.next v) ∨ s.fetchDecode = .error (.next v) ∨
      ∃ i u, s.fetchDecode = .ok (i, u) ∧ exec i u = .next v) : Contained s v := by
  obtain hpreempt | hfetch | ⟨i, u, hfetch, hexec⟩ := h
  · exact contained_preempt haccepted hpreempt
  · exact contained_fetchDecode_error hfetch
  · have hfetched := systemKept_fetchDecode_ok hfetch
    exact hfetched.contained_trans (exec_contained (hfetched.mode.flagU.trans huser) hexec)

/-- Settles O14: an accepted interrupt enters or resets, any other way through a step is contained, and the end of the
step touches the overflow bits alone. -/
theorem userModeIsContained : Obligations.UserModeIsContained := by
  intro s t s0 huser hstep
  cases haccepted : s0.accepted with
  | some n =>
    have hinterrupt := step_of_preempt (State.preempt_of_accepted haccepted)
    obtain rfl : t = (s0.takeInterrupt n).finishStep s0.cpu.flagU :=
      Host.Outcome.next.inj (hstep.symm.trans hinterrupt)
    have hsscr := ((s0.takeInterrupt n).finishStep_control s0.cpu.flagU s0.turn).sscr
    refine ⟨?_, fun hnone => by cases hnone⟩
    obtain hentry | ⟨rfl, hmode, hW⟩ := s0.takeInterrupt_contained n
    · exact .inl ⟨n, n.isLt, hentry.finishStep _⟩
    · refine .inr (.inl ⟨rfl, ?_, ?_⟩)
      · rw [hsscr]
        exact hmode
      · exact (congrArg (BitVec.getLsbD · bitW) hsscr).trans hW
  | none =>
    obtain ⟨v, rfl, hv⟩ := step_next hstep
    have hsscr := (v.finishStep_control s0.cpu.flagU s0.turn).sscr
    have hcontained := step_contained huser haccepted hv
    refine ⟨?_, fun _ => ⟨hcontained.test, hcontained.pageTable, hcontained.argument, hcontained.window,
      fun hconfig j hj hlow hhigh => ?_⟩⟩
    · obtain ⟨n, hn, hentry⟩ | hmode := hcontained.ends
      · exact .inl ⟨n, hn, hentry.finishStep _⟩
      · refine .inr (.inr (BitVec.eq_of_getLsbD_eq fun j hj => ?_))
        rw [hsscr, BitVec.getLsbD_extractLsb', BitVec.getLsbD_extractLsb', hmode (8 + j) (by omega) (by omega)]
    · rw [v.finishStep_s12_getLsbD _ hj hlow hhigh, hcontained.config hconfig]

end Sys2Proof.Machine
end

section
/-! PROOFS. O31 fails: for a run with RegA inside it, as for O37 and O38, the statement does not ask for a well formed
data cache (`State.CacheWf`). In `twinState` the run's first store replaces one of the two entries that hold the line at
address 0; its second finds the other, whose tag denies the access (20_memory.md R101), and StM faults. -/

namespace Sys2Proof.Machine

/-! ### A fault of a run, and the rest of the run after it -/

/-- After a fault of a store nothing is left of the run, and the PU is in system mode; RegA may be in the run. -/
theorem storeTransfer_systemLoads_of_error {s : State} {x : Transfer} {f : MemFault}
    (h : ((s.wr x.addr x.storeAddress).atCount x).storeWord (addressOf x.storeAddress) (s.runValue x) = .error f) :
    (s.storeTransfer x).cpu.SystemLoads := by
  unfold State.atCount Transfer.storeAddress at h
  simp only [State.storeTransfer, h]
  exact State.dataFault_systemLoads ..

theorem State.transfers_systemLoads {s : State} (n : Nat) (h : s.cpu.SystemLoads) :
    (s.transfers n).cpu.SystemLoads := by
  induction n generalizing s with
  | zero => exact h
  | succ n ih => exact ih (State.continueRun_systemLoads h)

/-! ### StM R3 (R3) from `twinState` -/

/-- The first transfer of StM R3 (R3): a free value to word 1. -/
def twinOverlap : Transfer := ⟨false, 3, 3, 2, 3⟩

theorem exec_twinOverlap : exec (.stM 3 3) twinState = .next (twinState.transferOne twinOverlap) := rfl

theorem twinOverlap_run :
    (twinState.transferOne twinOverlap).cpu.run = some (.move { twinOverlap with next := 2 }) := by
  decide +kernel

/-- Word 1 was missed, and its line replaced way 0: a store to word 0 finds way 1. -/
theorem twinOverlap_denied : (twinState.transferOne twinOverlap).DataFaultIs 0 .store 0x15 :=
  .inr ⟨TlbEntry.identity.desc, by decide +kernel, rfl, .inr (.inr (.inr
    ⟨by decide +kernel, by decide +kernel, ⟨true, false, false, false, 0, none, 0⟩, by decide +kernel,
      by decide +kernel⟩))⟩

/-- The second transfer faults, to word 0. -/
theorem twinOverlap_faults : (twinState.transferOne twinOverlap).continueRun.cpu.SystemLoads := by
  obtain ⟨f, -, htranslate⟩ := twinOverlap_denied.translate (.inr rfl)
  rw [State.continueRun_of_move twinOverlap_run, State.transferOne, if_neg (by decide)]
  refine storeTransfer_systemLoads_of_error (f := f) (State.storeWord_of_error _ ?_)
  rw [State.translate_atCount, State.translate_wr]
  exact htranslate

/-- Refutes O31: StM R3 (R3) from `twinState`, whose RegA is in its run, faults at its second word and so ends in system
mode, where the statement has it complete in user mode. -/
theorem not_undefinedResultsComplete : ¬ Obligations.UndefinedResultsComplete := by
  rintro ⟨-, -, hruns, -⟩
  obtain ⟨-, t, ht, -, -, -, hframe⟩ :=
    hruns twinState 3 3 (by decide) twinState_identityMap (by decide) twinState_noStale
  obtain rfl := Host.Outcome.next.inj (ht.symm.trans exec_twinOverlap)
  have hkept : ((twinState.transferOne twinOverlap).transfers 2).cpu.flagU = twinState.cpu.flagU :=
    hframe (.status 12) (by decide +kernel)
  have hsystem : ((twinState.transferOne twinOverlap).transfers 2).cpu.flagU = false :=
    (State.transfers_systemLoads 1 twinOverlap_faults).1
  rw [hsystem, twinState_user] at hkept
  cases hkept

end Sys2Proof.Machine
end
